-- ==== Sys2Proof/Word.lean ====
section
/-! DEFINITION. The word and byte types of PDI (`00_scope.md` R6, R8, R9). -/

namespace Sys2Proof

/-- The value of a 32-bit register and of a command word (`00_scope.md` R6, `30_encoding.md` R90). -/
abbrev Word := BitVec 32

/-- One byte of MEM, one 8-bit colour channel (`00_scope.md` R6, R7). -/
abbrev Byte := BitVec 8

end Sys2Proof
end

