-- ==== Sys2Proof/Config.lean ====
section
/-! DEFINITION. What an instance of PDI fixes (`00_scope.md` R6: MEMSIZE, MAXDIM, ERRDIV, KROM), the shape of the kernel table
(`44_dither.md` R200, R201), and the one free value of the model: the unspecified content of MEM. -/

namespace Sys2Proof

/-- The rounding of an accumulated error divided by 65536 (`44_dither.md` R206, parameter `ERRDIV`, OPEN by decision D21). -/
inductive ErrDiv where
  | trunc
  | floor
deriving DecidableEq, Repr

/-- One pixel offset that receives error (`44_dither.md` R201). `dx` is the stored byte, read as two's complement; `dy` counts
rows downward and is 0, 1 or 2. -/
structure Target where
  dx : Byte
  dy : Fin 3
deriving DecidableEq, Repr

/-- One entry of a kernel: a 16.16 weight and the targets it goes to (`44_dither.md` R201). Unused target slots are simply
absent from the list. -/
structure KernelEntry where
  weight : Nat
  targets : List Target
deriving DecidableEq, Repr

/-- A kernel: its entries in order, the last one the sentinel of weight 0 (`44_dither.md` R201). -/
abbrev Kernel := List KernelEntry

/-- One triple (dx, dy, w) of `T(k)`: a pixel offset and the weight of the error sent there (`44_dither.md` R201, R202). -/
structure Share where
  dx : Int
  dy : Fin 3
  weight : Nat
deriving DecidableEq, Repr

/-- The eight built-in kernels by name (`44_dither.md` R200). -/
inductive KernelId where
  | floydSteinberg
  | jarvisJudiceNinke
  | stucki
  | burkes
  | atkinson
  | sierra3
  | sierra2
  | sierraLite
deriving DecidableEq, Repr

/-- The Dither Kernel Table `KROM[1..8]` (`10_state.md` R36, `44_dither.md` R200). -/
structure Krom where
  floydSteinberg : Kernel
  jarvisJudiceNinke : Kernel
  stucki : Kernel
  burkes : Kernel
  atkinson : Kernel
  sierra3 : Kernel
  sierra2 : Kernel
  sierraLite : Kernel
deriving DecidableEq, Repr

/-- The parameters of an instance (`00_scope.md` R6). -/
structure Params where
  /-- MEMSIZE, the number of bytes of MEM. -/
  memSize : Nat
  /-- MAXDIM, the largest legal value of `x[W]` and of `x[H]`. -/
  maxDim : Nat
  /-- ERRDIV. -/
  errDiv : ErrDiv
  /-- KROM. -/
  krom : Krom
deriving DecidableEq, Repr

/-- The capacity `ECAP` of a kernel's entry list, the sentinel included (`44_dither.md` R201). -/
def Config.ecap : Nat := 8

/-- The capacity `TCAP` of an entry's target list (`44_dither.md` R201). -/
def Config.tcap : Nat := 6

/-- The constant read at register offset 0x00: the bytes 'P', 'D', 'I' and the revision 1 (`10_state.md` R35). -/
def Config.idWord : Word := 0x50444901#32

/-- FREE VALUE (`93_implementation_defined.md` U1, U12; `10_state.md` R39): the byte that an address of MEM holds while
nothing has written it since the latest reset. The first argument counts resets, so that two resets need not leave the same
bytes; the second is the address. It has no body: nothing is known of its values. Log 2, DESIGN CHOICE, safe. -/
opaque Config.unspecifiedByte : Nat → Nat → Byte

end Sys2Proof
end

