-- ==== Sys2Proof/Machine/Krom.lean ====
section
/-! DEFINITION. The kernel table of error diffusion: how a kernel is read (`44_dither.md` R201), the reference image `KROM_REF`
(R204) and the reference parameters (`00_scope.md` R6). -/

namespace Sys2Proof.Machine

/-- `T(k)`: the triples (dx, dy, w) of a kernel, up to its sentinel of weight 0 (`44_dither.md` R201, R202). -/
def kernelShares : Kernel → List Share
  | [] => []
  | e :: rest =>
    if e.weight = 0 then []
    else e.targets.map (fun t => { dx := t.dx.toInt, dy := t.dy, weight := e.weight }) ++ kernelShares rest

/-- The kernel `KROM[k]` by its name (`44_dither.md` R200). -/
def kernelOf (krom : Krom) : KernelId → Kernel
  | .floydSteinberg => krom.floydSteinberg
  | .jarvisJudiceNinke => krom.jarvisJudiceNinke
  | .stucki => krom.stucki
  | .burkes => krom.burkes
  | .atkinson => krom.atkinson
  | .sierra3 => krom.sierra3
  | .sierra2 => krom.sierra2
  | .sierraLite => krom.sierraLite

/-- A target from the signed offset the spec's table prints. -/
def target (dx : Int) (dy : Fin 3) : Target := { dx := BitVec.ofInt 8 dx, dy := dy }

/-- The sentinel entry that ends a kernel (`44_dither.md` R201). -/
def sentinel : KernelEntry := { weight := 0, targets := [] }

/-- `KROM_REF`, the reference image of the table (`44_dither.md` R204). PRESUMED: the published coefficients are general
knowledge by the spec's own mark; log 9. -/
def kromRef : Krom where
  floydSteinberg :=
    [ { weight := 28672, targets := [target 1 0] },
      { weight := 12288, targets := [target (-1) 1] },
      { weight := 20480, targets := [target 0 1] },
      { weight := 4096, targets := [target 1 1] },
      sentinel ]
  jarvisJudiceNinke :=
    [ { weight := 9557, targets := [target 1 0, target 0 1] },
      { weight := 6827, targets := [target 2 0, target (-1) 1, target 1 1, target 0 2] },
      { weight := 4096, targets := [target (-2) 1, target 2 1, target (-1) 2, target 1 2] },
      { weight := 1365, targets := [target (-2) 2, target 2 2] },
      sentinel ]
  stucki :=
    [ { weight := 12484, targets := [target 1 0, target 0 1] },
      { weight := 6241, targets := [target 2 0, target (-1) 1, target 1 1, target 0 2] },
      { weight := 3121, targets := [target (-2) 1, target 2 1, target (-1) 2, target 1 2] },
      { weight := 1560, targets := [target (-2) 2, target 2 2] },
      sentinel ]
  burkes :=
    [ { weight := 16384, targets := [target 1 0, target 0 1] },
      { weight := 8192, targets := [target 2 0, target (-1) 1, target 1 1] },
      { weight := 4096, targets := [target (-2) 1, target 2 1] },
      sentinel ]
  atkinson :=
    [ { weight := 10923, targets := [target 1 0, target (-1) 1, target 0 1, target 1 1] },
      { weight := 10922, targets := [target 2 0, target 0 2] },
      sentinel ]
  sierra3 :=
    [ { weight := 10240, targets := [target 1 0, target 0 1] },
      { weight := 8192, targets := [target (-1) 1, target 1 1] },
      { weight := 6144, targets := [target 2 0, target 0 2] },
      { weight := 4096, targets := [target (-2) 1, target 2 1, target (-1) 2, target 1 2] },
      sentinel ]
  sierra2 :=
    [ { weight := 16384, targets := [target 1 0] },
      { weight := 12288, targets := [target 2 0, target 0 1] },
      { weight := 8192, targets := [target (-1) 1, target 1 1] },
      { weight := 4096, targets := [target (-2) 1, target 2 1] },
      sentinel ]
  sierraLite :=
    [ { weight := 32768, targets := [target 1 0] },
      { weight := 16384, targets := [target (-1) 1, target 0 1] },
      sentinel ]

/-- The instance `State.reset` describes: the default of each parameter (`00_scope.md` R6). DESIGN CHOICE; log 1. -/
def referenceParams : Params where
  memSize := 65536
  maxDim := 65535
  errDiv := .trunc
  krom := kromRef

end Sys2Proof.Machine
end

