-- ==== Sys2Proof/Syntax.lean ====
section
/-! DEFINITION. The commands of PDI: one constructor for each of the 30 rows of `spec/opcode_table.json`
(`30_encoding.md` R92, R99). -/

namespace Sys2Proof

/-- A decoded command word. The operands that are addresses, sizes or colours stand in the operand registers, not in the word
(`30_encoding.md` R90); only `FILLP` carries fields of its own (R94). -/
inductive Instr where
  /-- `PLCLR` (`40_planar.md` R121). -/
  | plclr
  /-- `FILLP plane, set` (`40_planar.md` R123). -/
  | fillp (plane : Nat) (set : Bool)
  /-- `DEINT` (`40_planar.md` R126). -/
  | deint
  /-- `SOLID.B`, 1 byte a pixel (`41_chunky_fill_expand.md` R142). -/
  | solidB
  /-- `SOLID.H`, 2 bytes a pixel. -/
  | solidH
  /-- `SOLID.W`, 4 bytes a pixel. -/
  | solidW
  /-- The `SOLID` word with `SZ` = 3 (`30_encoding.md` R95, R99). -/
  | solidSz3
  /-- `EXPAND.B`, 1 byte a pixel (`41_chunky_fill_expand.md` R146). -/
  | expandB
  /-- `EXPAND.H`, 2 bytes a pixel. -/
  | expandH
  /-- `EXPAND.W`, 4 bytes a pixel. -/
  | expandW
  /-- The `EXPAND` word with `SZ` = 3 (`30_encoding.md` R95, R99). -/
  | expandSz3
  /-- `HAM6` (`42_ham.md` R163). -/
  | ham6
  /-- `HAM8` (`42_ham.md` R164). -/
  | ham8
  /-- `RGB2PAL.NONE`, K = 0 (`43_nearest_quantize.md` R186). -/
  | rgb2palNone
  /-- `RGB2PAL.FS`, K = 1 (`44_dither.md` R210). -/
  | rgb2palFs
  /-- `RGB2PAL.JJN`, K = 2 (R211). -/
  | rgb2palJjn
  /-- `RGB2PAL.STUCKI`, K = 3 (R212). -/
  | rgb2palStucki
  /-- `RGB2PAL.BURKES`, K = 4 (R213). -/
  | rgb2palBurkes
  /-- `RGB2PAL.ATKINSON`, K = 5 (R214). -/
  | rgb2palAtkinson
  /-- `RGB2PAL.SIERRA3`, K = 6 (R215). -/
  | rgb2palSierra3
  /-- `RGB2PAL.SIERRA2`, K = 7 (R216). -/
  | rgb2palSierra2
  /-- `RGB2PAL.SIERRALITE`, K = 8 (R217). -/
  | rgb2palSierralite
  /-- The alias word K = 9 (`43_nearest_quantize.md` R187). -/
  | rgb2palK9
  /-- The alias word K = 10. -/
  | rgb2palK10
  /-- The alias word K = 11. -/
  | rgb2palK11
  /-- The alias word K = 12. -/
  | rgb2palK12
  /-- The alias word K = 13. -/
  | rgb2palK13
  /-- The alias word K = 14. -/
  | rgb2palK14
  /-- The alias word K = 15. -/
  | rgb2palK15
  /-- `NEAREST` (`43_nearest_quantize.md` R184). -/
  | nearest
deriving DecidableEq, Repr

end Sys2Proof
end

