-- ==== Sys2Proof/WellFormed.lean ====
section
/-! DEFINITION. What makes a command and an instance well formed: the ranges of a command's fields (`30_encoding.md` R94) and
the conditions on the parameters (`00_scope.md` R6, `44_dither.md` R201, R202). -/

namespace Sys2Proof

/-- The fields of a command lie in the ranges their bits can hold: `PLANE` is 0 to 31 (`30_encoding.md` R94). -/
def Instr.wellFormed : Instr → Bool
  | .plclr => true
  | .fillp plane _ => decide (plane < 32)
  | .deint => true
  | .solidB => true
  | .solidH => true
  | .solidW => true
  | .solidSz3 => true
  | .expandB => true
  | .expandH => true
  | .expandW => true
  | .expandSz3 => true
  | .ham6 => true
  | .ham8 => true
  | .rgb2palNone => true
  | .rgb2palFs => true
  | .rgb2palJjn => true
  | .rgb2palStucki => true
  | .rgb2palBurkes => true
  | .rgb2palAtkinson => true
  | .rgb2palSierra3 => true
  | .rgb2palSierra2 => true
  | .rgb2palSierralite => true
  | .rgb2palK9 => true
  | .rgb2palK10 => true
  | .rgb2palK11 => true
  | .rgb2palK12 => true
  | .rgb2palK13 => true
  | .rgb2palK14 => true
  | .rgb2palK15 => true
  | .nearest => true

/-- An entry before the sentinel: a weight from 1 to 65536 and 1 to `TCAP` targets (`44_dither.md` R201). -/
def entryShapeOk (e : KernelEntry) : Bool :=
  decide (1 ≤ e.weight) && decide (e.weight ≤ 65536) && decide (1 ≤ e.targets.length)
    && decide (e.targets.length ≤ Config.tcap)

/-- The structure of a kernel: at most `ECAP` entries, the last of which is the sentinel (`44_dither.md` R201). -/
def kernelShapeOk (k : Kernel) : Bool :=
  decide (k.length ≤ Config.ecap)
    && (match k.getLast? with
        | some e => decide (e.weight = 0)
        | none => false)
    && k.dropLast.all entryShapeOk

/-- (a): the weights of all targets sum to one error unit (`44_dither.md` R202). -/
def sharesSumToUnit (t : List Share) : Bool :=
  decide ((t.map (fun sh => sh.weight)).sum = 65536)

/-- (b): every target is a pixel not yet processed (`44_dither.md` R202). -/
def sharesAhead (t : List Share) : Bool :=
  t.all (fun sh => decide (sh.dy = 0 → 1 ≤ sh.dx))

/-- (c): the targets are pairwise distinct and every weight is at least 1 (`44_dither.md` R202). -/
def sharesDistinct (t : List Share) : Bool :=
  decide ((t.map (fun sh => (sh.dx, sh.dy))).Nodup) && t.all (fun sh => decide (1 ≤ sh.weight))

/-- A kernel that an instance of PDI may hold: its structure (`44_dither.md` R201) and conditions (a) to (d) of R202. -/
def kernelOk (k : Kernel) : Bool :=
  kernelShapeOk k && sharesSumToUnit (Machine.kernelShares k) && sharesAhead (Machine.kernelShares k)
    && sharesDistinct (Machine.kernelShares k) && !(Machine.kernelShares k).isEmpty

/-- Every one of the eight kernels is well formed (`44_dither.md` R202). -/
def kromOk (krom : Krom) : Bool :=
  kernelOk krom.floydSteinberg && kernelOk krom.jarvisJudiceNinke && kernelOk krom.stucki && kernelOk krom.burkes
    && kernelOk krom.atkinson && kernelOk krom.sierra3 && kernelOk krom.sierra2 && kernelOk krom.sierraLite

/-- A legal instance of PDI (`00_scope.md` R6: 1 ≤ MEMSIZE ≤ 2^32 − 1, 1 ≤ MAXDIM ≤ 65535, a `KROM` meeting
`44_dither.md` R201 to R203). -/
def Params.legal (p : Params) : Bool :=
  decide (1 ≤ p.memSize) && decide (p.memSize ≤ 4294967295) && decide (1 ≤ p.maxDim) && decide (p.maxDim ≤ 65535)
    && kromOk p.krom

end Sys2Proof
end

