-- ==== Sys2Proof/Decode.lean ====
section
/-! DEFINITION. Decoding a command word (`30_encoding.md` R93), total on every 32-bit word, and encoding a command
(`30_encoding.md` R91, R92). -/

namespace Sys2Proof

/-- Why a word names no command; both reasons raise `ILLCMD` (`30_encoding.md` R93, R97, R98). -/
inductive DecodeError where
  /-- The opcode is 0x00 or 0x0A to 0xFF (R98). -/
  | illegalOpcode
  /-- A bit that the format reserves is set (R97). -/
  | reservedBitSet
deriving DecidableEq, Repr

/-- `c[hi:lo]`, the unsigned value of bits hi down to lo (`00_scope.md` R9). -/
def bits (c : Word) (hi lo : Nat) : Nat := c.toNat / 2 ^ lo % 2 ^ (hi + 1 - lo)

/-- Format N: bits 31:8 are reserved (`30_encoding.md` R91, R93). -/
def decodeN (c : Word) (i : Instr) : Except DecodeError Instr :=
  if bits c 31 8 ≠ 0 then .error .reservedBitSet else .ok i

/-- Format P: `PLANE` in bits 12:8, `SET` in bit 13, bits 31:14 reserved (`30_encoding.md` R91, R94). -/
def decodeP (c : Word) : Except DecodeError Instr :=
  if bits c 31 14 ≠ 0 then .error .reservedBitSet
  else .ok (.fillp (bits c 12 8) (decide (bits c 13 13 = 1)))

/-- Format Z: `SZ` in bits 9:8, bits 31:10 reserved (`30_encoding.md` R91, R95). -/
def decodeZ (c : Word) (b h w sz3 : Instr) : Except DecodeError Instr :=
  if bits c 31 10 ≠ 0 then .error .reservedBitSet
  else .ok (match bits c 9 8 with
    | 0 => b
    | 1 => h
    | 2 => w
    | _ => sz3)

/-- The command a kernel selector names (`30_encoding.md` R96, `43_nearest_quantize.md` R187). -/
def kernelInstr : Nat → Instr
  | 0 => .rgb2palNone
  | 1 => .rgb2palFs
  | 2 => .rgb2palJjn
  | 3 => .rgb2palStucki
  | 4 => .rgb2palBurkes
  | 5 => .rgb2palAtkinson
  | 6 => .rgb2palSierra3
  | 7 => .rgb2palSierra2
  | 8 => .rgb2palSierralite
  | 9 => .rgb2palK9
  | 10 => .rgb2palK10
  | 11 => .rgb2palK11
  | 12 => .rgb2palK12
  | 13 => .rgb2palK13
  | 14 => .rgb2palK14
  | _ => .rgb2palK15

/-- Format K: `K` in bits 11:8, bits 31:12 reserved (`30_encoding.md` R91, R96). -/
def decodeK (c : Word) : Except DecodeError Instr :=
  if bits c 31 12 ≠ 0 then .error .reservedBitSet else .ok (kernelInstr (bits c 11 8))

/-- Decoding, a total function of the word (`30_encoding.md` R93). -/
def decode (c : Word) : Except DecodeError Instr :=
  match bits c 7 0 with
  | 1 => decodeN c .plclr
  | 2 => decodeP c
  | 3 => decodeN c .deint
  | 4 => decodeZ c .solidB .solidH .solidW .solidSz3
  | 5 => decodeZ c .expandB .expandH .expandW .expandSz3
  | 6 => decodeN c .ham6
  | 7 => decodeN c .ham8
  | 8 => decodeK c
  | 9 => decodeN c .nearest
  | _ => .error .illegalOpcode

/-- The word of a command as a number (`30_encoding.md` R92, "Full words"; the alias words of R99). -/
def encodeNat : Instr → Nat
  | .plclr => 0x00000001
  | .fillp plane set => 0x00000002 + 0x100 * plane + (if set then 0x2000 else 0)
  | .deint => 0x00000003
  | .solidB => 0x00000004
  | .solidH => 0x00000104
  | .solidW => 0x00000204
  | .solidSz3 => 0x00000304
  | .expandB => 0x00000005
  | .expandH => 0x00000105
  | .expandW => 0x00000205
  | .expandSz3 => 0x00000305
  | .ham6 => 0x00000006
  | .ham8 => 0x00000007
  | .rgb2palNone => 0x00000008
  | .rgb2palFs => 0x00000108
  | .rgb2palJjn => 0x00000208
  | .rgb2palStucki => 0x00000308
  | .rgb2palBurkes => 0x00000408
  | .rgb2palAtkinson => 0x00000508
  | .rgb2palSierra3 => 0x00000608
  | .rgb2palSierra2 => 0x00000708
  | .rgb2palSierralite => 0x00000808
  | .rgb2palK9 => 0x00000908
  | .rgb2palK10 => 0x00000A08
  | .rgb2palK11 => 0x00000B08
  | .rgb2palK12 => 0x00000C08
  | .rgb2palK13 => 0x00000D08
  | .rgb2palK14 => 0x00000E08
  | .rgb2palK15 => 0x00000F08
  | .nearest => 0x00000009

/-- The command word of a well-formed command (`30_encoding.md` R92). -/
def encode (i : Instr) : Word := BitVec.ofNat 32 (encodeNat i)

/-- The decoder on an instruction given as a number of `nbits` bits, every bit above them 0. A command is one 32-bit word
written whole to `CMD`, so there is no byte order to lay out (`30_encoding.md` R90, `20_memory.md` R61). -/
def decodeTableWord (nbits w : Nat) : Option Instr :=
  match decode (BitVec.ofNat 32 (w % 2 ^ nbits)) with
  | .ok i => some i
  | .error _ => none

end Sys2Proof
end

