-- ==== Sys2Proof/Machine/State.lean ====
section
/-! DEFINITION. The state of PDI (`10_state.md` R20): operand registers, `CTRL`, `STATUS`, `ERRCODE`, `ERRINFO`, `CUR`, `RES`,
MEM, the constants of the instance, and the model's own fields for the interleaving of host and engine. -/

namespace Sys2Proof.Machine

/-- The 13 operand registers by name (`10_state.md` R24). -/
inductive OpReg where
  | plb
  | chb
  | dsb
  | palb
  | paln
  | palf
  | w
  | h
  | npl
  | xtra
  | sx
  | sy
  | color
deriving DecidableEq, Repr

/-- `x[0..12]` (`10_state.md` R24). -/
structure OpRegs where
  /-- `x[0]`: address of plane 0. -/
  plb : Word
  /-- `x[1]`: address of the chunky bitmap. -/
  chb : Word
  /-- `x[2]`: address of the bitmap a transform produces. -/
  dsb : Word
  /-- `x[3]`: address of the palette. -/
  palb : Word
  /-- `x[4]`: number of palette entries; in `NEAREST` the exclusive end of the range. -/
  paln : Word
  /-- `x[5]`: first entry of the range of `NEAREST`. -/
  palf : Word
  /-- `x[6]`: width in pixels. -/
  w : Word
  /-- `x[7]`: height in pixels. -/
  h : Word
  /-- `x[8]`: number of planes. -/
  npl : Word
  /-- `x[9]`: extra destination bytes a row. -/
  xtra : Word
  /-- `x[10]`: horizontal scale. -/
  sx : Word
  /-- `x[11]`: vertical scale. -/
  sy : Word
  /-- `x[12]`: fill colour or query colour. -/
  color : Word
deriving DecidableEq, Repr

/-- The four flags of `STATUS` (`10_state.md` R29). Bits 31:4 are reserved and read 0 (R23), so they hold nothing; log 12. -/
structure Status where
  busy : Bool
  done : Bool
  err : Bool
  ovr : Bool
deriving DecidableEq, Repr

/-- MEM: the bytes written since the latest reset, as (address, byte) pairs with strictly rising addresses. An address that is
not listed holds its unspecified byte (`10_state.md` R39; logs 2 and 11). -/
abbrev Memory := List Host.Cell

/-- The host's moves (`10_state.md` R21). -/
inductive HostMove where
  /-- `RegRead(off)`. -/
  | regRead (off : Nat)
  /-- `RegWrite(off, v)`. -/
  | regWrite (off : Nat) (v : Word)
  /-- `HostMemRead(a)`. -/
  | memRead (a : Nat)
  /-- `HostMemWrite(a, b)`. -/
  | memWrite (a : Nat) (b : Byte)
  /-- `Reset`. -/
  | reset
deriving DecidableEq, Repr

/-- One turn of the interleaving of host and engine (`10_state.md` R21; logs 4 and 5). -/
inductive Turn where
  /-- The host makes a move. -/
  | host (m : HostMove)
  /-- The engine makes its move if it is enabled. -/
  | engine
  /-- The host polls `STATUS` until `BUSY` reads 0 (`30_encoding.md` R102 `WAIT`). -/
  | wait
deriving DecidableEq, Repr

/-- What a host read returned (`10_state.md` R21). -/
inductive Reply where
  /-- The 32 bits a `RegRead` returned. -/
  | reg (v : Word)
  /-- The byte a `HostMemRead` returned. -/
  | mem (b : Byte)
deriving DecidableEq, Repr

/-- The state of the machine. -/
structure State where
  /-- `x[0..12]` (`10_state.md` R24). -/
  x : OpRegs
  /-- `CTRL` bit 0, `IEN` (`10_state.md` R30); log 12. -/
  ien : Bool
  /-- `STATUS` (`10_state.md` R29). -/
  status : Status
  /-- `ERRCODE` bits 7:0 (`10_state.md` R31); log 12. -/
  errCode : Byte
  /-- `ERRINFO` (`10_state.md` R31). -/
  errInfo : Word
  /-- The latch `CUR`, read through `CMD` (`10_state.md` R32). -/
  cur : Word
  /-- `RES` (`10_state.md` R33). -/
  res : Word
  /-- MEM (`10_state.md` R37). -/
  mem : Memory
  /-- The constants of the instance: MEMSIZE, MAXDIM, ERRDIV, KROM (`00_scope.md` R6); no move changes them; log 1. -/
  cfg : Params
  /-- MODEL FIELD: the number of resets taken, which selects the unspecified content of MEM; log 3. -/
  epoch : Nat
  /-- MODEL FIELD: the turns still to come; log 4. -/
  script : List Turn
  /-- MODEL FIELD: what the host's reads returned, oldest first; log 4. -/
  replies : List Reply
deriving DecidableEq, Repr

/-- Why the machine stops with a fault. PDI's own faults (`60_exceptions.md` R233) are no stops: they are next states. -/
inductive Fault where
  /-- Raised by `HostMemRead` and `HostMemWrite` with an address outside 0 .. MEMSIZE − 1, which MEM does not have
  (`10_state.md` R37). Safe: the model stops where the spec has no such access; log 6. -/
  | noSuchAddress
deriving DecidableEq, Repr

/-- Why the machine refuses to go on. -/
inductive Refusal where
  /-- Raised by an arm of `exec` whose instruction has no meaning yet; safe. No arm raises it in this model. -/
  | notModelled (mnemonic : String)
  /-- Raised by `HostMemRead` and `HostMemWrite` while `BUSY` = 1: a move the host does not have then
  (`70_reset_and_hazards.md` R264, U2). Safe; log 7. -/
  | memoryWhileBusy
  /-- Raised by `RegRead` and `RegWrite` at an offset that is not a multiple of 4 or is above 0xFC: a move the host does not
  have (`10_state.md` R23, U9). Safe; log 8. -/
  | noSuchRegister
deriving DecidableEq, Repr

/-- Every operand register 0 (`10_state.md` R39). -/
def OpRegs.zero : OpRegs where
  plb := 0
  chb := 0
  dsb := 0
  palb := 0
  paln := 0
  palf := 0
  w := 0
  h := 0
  npl := 0
  xtra := 0
  sx := 0
  sy := 0
  color := 0

/-- Every flag 0 (`10_state.md` R39). -/
def Status.clear : Status where
  busy := false
  done := false
  err := false
  ovr := false

/-- The state after reset of an instance, at the `epoch`-th reset, with nothing scripted (`10_state.md` R39). -/
def State.resetOf (cfg : Params) (epoch : Nat) : State where
  x := OpRegs.zero
  ien := false
  status := Status.clear
  errCode := 0
  errInfo := 0
  cur := 0
  res := 0
  mem := []
  cfg := cfg
  epoch := epoch
  script := []
  replies := []

/-- The machine right after reset (`10_state.md` R39), for the reference instance of `00_scope.md` R6; logs 1, 3 and 4. -/
def State.reset : State := State.resetOf referenceParams 0

end Sys2Proof.Machine
end

