-- ==== Sys2Proof/Machine/Flags.lean ====
section
/-! DEFINITION. Every computation on `STATUS` and on the interrupt output (`10_state.md` R29, R30, R32; `60_exceptions.md`
R231, R232, R239, R240). -/

namespace Sys2Proof.Machine

/-- The flag's value at bit `n` of a word. -/
def flagAt (n : Nat) (flag : Bool) : Word := if flag then BitVec.ofNat 32 (2 ^ n) else 0

/-- `STATUS` as the host reads it: bits 0 to 3 the flags, bits 31:4 zero (`10_state.md` R22, R23, R29). -/
def statusWord (f : Status) : Word := flagAt 0 f.busy ||| flagAt 1 f.done ||| flagAt 2 f.err ||| flagAt 3 f.ovr

/-- `CTRL` as the host reads it: bit 0 `IEN`, bits 31:1 zero (`10_state.md` R30). -/
def ctrlWord (ien : Bool) : Word := flagAt 0 ien

/-- A command ended in completion: BUSY 0, DONE 1, the others unchanged (`60_exceptions.md` R231). -/
def Status.completed (f : Status) : Status := { f with busy := false, done := true }

/-- A command ended in a fault: BUSY 0, ERR 1, the others unchanged (`60_exceptions.md` R232). -/
def Status.faulted (f : Status) : Status := { f with busy := false, err := true }

/-- A command was accepted: BUSY 1, DONE 0, the others unchanged (`10_state.md` R32). -/
def Status.accepted (f : Status) : Status := { f with busy := true, done := false }

/-- A host write was dropped: OVR 1 (`10_state.md` R25, R32; `60_exceptions.md` R239). -/
def Status.overrun (f : Status) : Status := { f with ovr := true }

/-- A host write of `v` to `STATUS`: each of DONE, ERR, OVR is cleared where `v` has a 1; `v[0]` and `v[31:4]` are ignored
(`10_state.md` R29). -/
def Status.writeOneToClear (f : Status) (v : Word) : Status :=
  { f with done := f.done && !v.getLsbD 1, err := f.err && !v.getLsbD 2, ovr := f.ovr && !v.getLsbD 3 }

/-- The acceptance test of a `CMD` write: neither BUSY nor ERR (`10_state.md` R32). -/
def Status.accepts (f : Status) : Bool := !f.busy && !f.err

/-- The interrupt output: `irq` = `CTRL.IEN` ∧ (`STATUS.DONE` ∨ `STATUS.ERR`) (`60_exceptions.md` R240). -/
def irq (s : State) : Bool := s.ien && (s.status.done || s.status.err)

end Sys2Proof.Machine
end

