-- ==== Sys2Proof/Machine/Ops.lean ====
section
/-! DEFINITION. The named operations over memory and registers, taking a fault (`60_exceptions.md` R232), completing a command
(R231) and the return from a fault (R238). -/

namespace Sys2Proof.Machine

/-! ## Operand registers -/

/-- The value of an operand register (`10_state.md` R24). -/
def OpRegs.get (x : OpRegs) : OpReg → Word
  | .plb => x.plb
  | .chb => x.chb
  | .dsb => x.dsb
  | .palb => x.palb
  | .paln => x.paln
  | .palf => x.palf
  | .w => x.w
  | .h => x.h
  | .npl => x.npl
  | .xtra => x.xtra
  | .sx => x.sx
  | .sy => x.sy
  | .color => x.color

/-- Storing all 32 bits in an operand register (`10_state.md` R25). -/
def OpRegs.set (x : OpRegs) (r : OpReg) (v : Word) : OpRegs :=
  match r with
  | .plb => { x with plb := v }
  | .chb => { x with chb := v }
  | .dsb => { x with dsb := v }
  | .palb => { x with palb := v }
  | .paln => { x with paln := v }
  | .palf => { x with palf := v }
  | .w => { x with w := v }
  | .h => { x with h := v }
  | .npl => { x with npl := v }
  | .xtra => { x with xtra := v }
  | .sx => { x with sx := v }
  | .sy => { x with sy := v }
  | .color => { x with color := v }

/-! ## Memory -/

/-- The byte written at an address since the latest reset, none where nothing has been written (log 11). -/
def Memory.lookup : Memory → Nat → Option Byte
  | [], _ => none
  | (k, b) :: rest, a => if k = a then some b else Memory.lookup rest a

/-- Writing one byte, in place or at its place in the rising order of addresses. -/
def Memory.store : Memory → Nat → Byte → Memory
  | [], a, b => [(a, b)]
  | (k, c) :: rest, a, b =>
    if a < k then (a, b) :: (k, c) :: rest
    else if k = a then (a, b) :: rest
    else (k, c) :: Memory.store rest a b

/-- Writing consecutive bytes from an address on, the first at the lowest address (`20_memory.md` R66). -/
def Memory.storeBytes : Memory → Nat → List Byte → Memory
  | m, _, [] => m
  | m, a, b :: rest => Memory.storeBytes (Memory.store m a b) (a + 1) rest

/-- The canonical form of MEM: addresses strictly rising. An unlisted address has no written byte, so no entry can equal what
an unlisted address holds (log 11). -/
def Memory.wf : Memory → Bool
  | [] => true
  | (k, _) :: rest => rest.all (fun c => decide (k < c.1)) && Memory.wf rest

/-- The low `8 * n` bits of a value as `n` bytes, least significant first (`20_memory.md` R60). -/
def leBytes : Nat → Nat → List Byte
  | 0, _ => []
  | n + 1, v => BitVec.ofNat 8 v :: leBytes n (v / 256)

/-- `MemWrite(addr, n, v)` (`00_scope.md` R10). -/
def Memory.write (m : Memory) (addr n v : Nat) : Memory := m.storeBytes addr (leBytes n v)

/-- The byte MEM[a]: what was written there, or the free value that the address holds since the latest reset
(`93_implementation_defined.md` U1; log 2). -/
def State.readByte (s : State) (a : Nat) : Byte :=
  (s.mem.lookup a).getD (Config.unspecifiedByte s.epoch a)

/-- `MemRead(addr, n)`: the byte at the lowest address is the least significant (`00_scope.md` R10, `20_memory.md` R60). -/
def State.memRead (s : State) (addr : Nat) : Nat → Nat
  | 0 => 0
  | n + 1 => (s.readByte addr).toNat + 256 * State.memRead s (addr + 1) n

/-- The bytes MEM[addr] .. MEM[addr + n − 1]. -/
def State.readBytes (s : State) (addr : Nat) : Nat → List Byte
  | 0 => []
  | n + 1 => s.readByte addr :: State.readBytes s (addr + 1) n

/-- Writing the pixels x = 0 .. `w` − 1 of one row that starts at `row`, `b` bytes each. -/
def Memory.storeRow (m : Memory) (row b : Nat) (pix : Nat → Nat) : Nat → Memory
  | 0 => m
  | w + 1 => (Memory.storeRow m row b pix w).write (row + w * b) b (pix w)

/-- Writing an image in raster order: for y = 0 .. `h` − 1, for x = 0 .. `w` − 1, pixel (x, y) of `b` bytes at
`base + y * stride + x * b` (`20_memory.md` R63; `40_planar.md` R126). -/
def Memory.storeImage (m : Memory) (base stride w b : Nat) (pix : Nat → Nat → Nat) : Nat → Memory
  | 0 => m
  | h + 1 =>
    Memory.storeRow (Memory.storeImage m base stride w b pix h) (base + h * stride) b (fun x => pix x h) w

/-- MEM replaced. -/
def State.setMem (s : State) (m : Memory) : State := { s with mem := m }

/-- `RES` written (`10_state.md` R33). -/
def State.setRes (s : State) (v : Word) : State := { s with res := v }

/-! ## The two ways a command ends -/

/-- The faults of a command (`60_exceptions.md` R233). -/
inductive PdiFault where
  | illCmd
  | badBpp
  | badPlanes
  | badPlane
  | badDim
  | badScale
  | badPal
  | palSmall
  | emptyPal
  | oom
  | overlap
  /-- The pixel number of the first malformed byte (R234). -/
  | badPixel (i : Nat)
deriving DecidableEq, Repr

/-- The code a fault writes to `ERRCODE` (`60_exceptions.md` R233). -/
def PdiFault.code : PdiFault → Byte
  | .illCmd => 1
  | .badBpp => 2
  | .badPlanes => 3
  | .badPlane => 4
  | .badDim => 5
  | .badScale => 6
  | .badPal => 7
  | .palSmall => 8
  | .emptyPal => 9
  | .oom => 10
  | .overlap => 11
  | .badPixel _ => 12

/-- The detail a fault writes to `ERRINFO`: the pixel number for `BADPIXEL`, 0 for every other fault
(`60_exceptions.md` R234). -/
def PdiFault.info : PdiFault → Word
  | .illCmd => 0
  | .badBpp => 0
  | .badPlanes => 0
  | .badPlane => 0
  | .badDim => 0
  | .badScale => 0
  | .badPal => 0
  | .palSmall => 0
  | .emptyPal => 0
  | .oom => 0
  | .overlap => 0
  | .badPixel i => BitVec.ofNat 32 i

/-- TAKING A FAULT (`60_exceptions.md` R232): BUSY 0, ERR 1, `ERRCODE` and `ERRINFO` written; MEM, `RES`, DONE, OVR, `CTRL`,
`CUR` and the operand registers unchanged. Nothing is saved elsewhere and control goes nowhere. -/
def State.raise (s : State) (f : PdiFault) : State :=
  { s with status := s.status.faulted, errCode := f.code, errInfo := f.info }

/-- THE RETURN FROM A FAULT, beside it (`60_exceptions.md` R238): a host write of `v` to `STATUS`; where it clears ERR
(`v[2]` = 1), `ERRCODE` and `ERRINFO` become 0 (`10_state.md` R29, R31). -/
def State.writeStatus (s : State) (v : Word) : State :=
  { s with
    status := s.status.writeOneToClear v
    errCode := if v.getLsbD 2 then 0 else s.errCode
    errInfo := if v.getLsbD 2 then 0 else s.errInfo }

/-- COMPLETION (`60_exceptions.md` R231): BUSY 0, DONE 1; everything else unchanged. -/
def State.complete (s : State) : State := { s with status := s.status.completed }

/-- A check of one stage: the fault it raises where its condition holds (`60_exceptions.md` R236). -/
def failIf (cond : Bool) (f : PdiFault) : Option PdiFault := if cond then some f else none

/-- The fault of the first stage that fails; later stages are not evaluated (`60_exceptions.md` R236, R237). -/
def firstFault : List (Option PdiFault) → Option PdiFault
  | [] => none
  | some f :: _ => some f
  | none :: rest => firstFault rest

/-- A command: its checks, all made before its first write, then its effect and completion (`60_exceptions.md` R230 to R232,
R236). -/
def runCommand (checks : List (Option PdiFault)) (effect : State → State) (s : State) :
    Host.Outcome State Fault Refusal :=
  match firstFault checks with
  | some f => .next (s.raise f)
  | none => .next (effect s).complete

end Sys2Proof.Machine
end

