-- ==== Sys2Proof/Machine/Operands.lean ====
section
/-! DEFINITION. The layout of every operand in MEM (`20_memory.md` R60 to R65, R78), the extents of the commands (R69), their
bounds and overlap (R70, R71), and the checks of `60_exceptions.md` R236 that several commands share. -/

namespace Sys2Proof.Machine

/-! ## Geometry -/

/-- `PPITCH(w)`, the row stride of a plane in bytes (`20_memory.md` R78). -/
def ppitch (w : Nat) : Nat := (w + 15) / 16 * 2

/-- `BPP(n)`, the pixel width of an image deinterleaved from n planes (`20_memory.md` R78). -/
def bpp (n : Nat) : Nat := if n ≤ 8 then 1 else if n ≤ 16 then 2 else 4

/-- `PSZ`, the size of one plane (`20_memory.md` R62). -/
def OpRegs.planeSize (x : OpRegs) : Nat := ppitch x.w.toNat * x.h.toNat

/-- `PlaneAddr(k, col, row)`: the byte of plane k that holds column `col` of row `row` (`20_memory.md` R62). -/
def OpRegs.planeAddr (x : OpRegs) (k col row : Nat) : Nat :=
  x.plb.toNat + k * x.planeSize + row * ppitch x.w.toNat + col / 8

/-- `PixAddr(B, w, b, col, row)` (`20_memory.md` R63). -/
def pixAddr (base w b col row : Nat) : Nat := base + row * (w * b) + col * b

/-! ## Extents -/

/-- A half-open byte range [base, base + len) of MEM (`00_scope.md` R12). -/
structure Extent where
  base : Nat
  len : Nat
deriving DecidableEq, Repr

/-- The extent lies inside MEM, computed without wrap-around (`20_memory.md` R70). -/
def Extent.fits (e : Extent) (memSize : Nat) : Bool := decide (e.base + e.len ≤ memSize)

/-- Two extents overlap (`20_memory.md` R71). -/
def Extent.overlaps (e f : Extent) : Bool :=
  decide (0 < e.len) && decide (0 < f.len) && decide (e.base < f.base + f.len) && decide (f.base < e.base + e.len)

/-- `PLX`, the whole planar buffer: max(NPL, 8) planes (`20_memory.md` R62). -/
def OpRegs.plx (x : OpRegs) : Extent := { base := x.plb.toNat, len := x.planeSize * max x.npl.toNat 8 }

/-- The row stride of `DEINT`'s destination (`40_planar.md` R126, R129). -/
def OpRegs.deintStride (x : OpRegs) : Nat := x.w.toNat * bpp x.npl.toNat + x.xtra.toNat

/-- `DDX`, the destination of `DEINT` (`20_memory.md` R69). -/
def OpRegs.ddx (x : OpRegs) : Extent := { base := x.chb.toNat, len := x.h.toNat * x.deintStride }

/-- `CX(b)`, the chunky bitmap at `x[CHB]` (`20_memory.md` R69). -/
def OpRegs.cx (x : OpRegs) (b : Nat) : Extent := { base := x.chb.toNat, len := x.w.toNat * x.h.toNat * b }

/-- `DX(b)`, the chunky bitmap at `x[DSB]` (`20_memory.md` R69). -/
def OpRegs.dx (x : OpRegs) (b : Nat) : Extent := { base := x.dsb.toNat, len := x.w.toNat * x.h.toNat * b }

/-- `PX`, the palette (`20_memory.md` R64). -/
def OpRegs.px (x : OpRegs) : Extent := { base := x.palb.toNat, len := 3 * x.paln.toNat }

/-! ## Checks shared by several commands (`60_exceptions.md` R236) -/

/-- Stage 3: more than 31 planes. -/
def checkPlanes (s : State) : Option PdiFault := failIf (decide (31 < s.x.npl.toNat)) .badPlanes

/-- Stage 5: a dimension that is 0 or above MAXDIM. -/
def checkDim (s : State) : Option PdiFault :=
  failIf (decide (s.x.w.toNat = 0) || decide (s.x.h.toNat = 0) || decide (s.cfg.maxDim < s.x.w.toNat)
    || decide (s.cfg.maxDim < s.x.h.toNat)) .badDim

/-- Stage 6: a scale factor that is 0 or does not divide its dimension. -/
def checkScale (s : State) : Option PdiFault :=
  failIf (decide (s.x.sx.toNat = 0) || decide (s.x.sy.toNat = 0) || decide (s.x.w.toNat % s.x.sx.toNat ≠ 0)
    || decide (s.x.h.toNat % s.x.sy.toNat ≠ 0)) .badScale

/-- Stage 7: more than 256 palette entries. -/
def checkPal (s : State) : Option PdiFault := failIf (decide (256 < s.x.paln.toNat)) .badPal

/-- Stage 8: fewer palette entries than the HAM mode needs. -/
def checkPalMin (least : Nat) (s : State) : Option PdiFault := failIf (decide (s.x.paln.toNat < least)) .palSmall

/-- Stage 10: an extent that does not lie inside MEM. -/
def checkFits (s : State) (e : Extent) : Option PdiFault := failIf (!e.fits s.cfg.memSize) .oom

/-- Stage 11: the written extent overlaps a read one. -/
def checkApart (written read : Extent) : Option PdiFault := failIf (written.overlaps read) .overlap

/-! ## Colours -/

/-- A Colour Register: red, green, blue of 8 bits each (`00_scope.md` R12). -/
structure Colour where
  red : Byte
  green : Byte
  blue : Byte
deriving DecidableEq, Repr

/-- `Pal(i)` (`00_scope.md` R10, `20_memory.md` R64). -/
def State.pal (s : State) (i : Nat) : Colour where
  red := s.readByte (s.x.palb.toNat + 3 * i)
  green := s.readByte (s.x.palb.toNat + 3 * i + 1)
  blue := s.readByte (s.x.palb.toNat + 3 * i + 2)

/-- The source pixel (col, row) of `RGB2PAL`: bytes +0, +1, +2 of a 4-byte pixel; the alpha byte is not read
(`20_memory.md` R65, `43_nearest_quantize.md` R188). -/
def State.sourcePixel (s : State) (col row : Nat) : Colour where
  red := s.readByte (s.x.chb.toNat + 4 * (row * s.x.w.toNat + col))
  green := s.readByte (s.x.chb.toNat + 4 * (row * s.x.w.toNat + col) + 1)
  blue := s.readByte (s.x.chb.toNat + 4 * (row * s.x.w.toNat + col) + 2)

/-- The colour `NEAREST` asks for: red in bits 7:0 of `x[COLOR]`, green in 15:8, blue in 23:16; bits 31:24 are ignored
(`10_state.md` R24). -/
def queryColour (v : Word) : Colour where
  red := v.extractLsb' 0 8
  green := v.extractLsb' 8 8
  blue := v.extractLsb' 16 8

/-- A 4-byte RGB pixel as it is written: red, green, blue, alpha = 0xFF (`20_memory.md` R65). -/
def Colour.rgbaBytes (c : Colour) : List Byte := [c.red, c.green, c.blue, 0xFF]

end Sys2Proof.Machine
end

