-- ==== Sys2Proof/Machine/Chunky.lean ====
section
/-! DEFINITION. The chunky support commands SOLID and EXPAND (`41_chunky_fill_expand.md`). -/

namespace Sys2Proof.Machine

/-! ## SOLID -/

/-- The checks of `SOLID` at pixel width b (`41_chunky_fill_expand.md` R142). -/
def solidChecks (b : Nat) (s : State) : List (Option PdiFault) := [checkDim s, checkFits s (s.x.cx b)]

/-- `SOLID` at pixel width b: the low 8·b bits of `x[COLOR]` in every pixel (`41_chunky_fill_expand.md` R142, R143). -/
def solid (b : Nat) (s : State) : Host.Outcome State Fault Refusal :=
  runCommand (solidChecks b s)
    (fun s => s.setMem (s.mem.storeImage s.x.chb.toNat (s.x.w.toNat * b) s.x.w.toNat b
      (fun _ _ => s.x.color.toNat) s.x.h.toNat)) s

/-- `SOLID.B` (`41_chunky_fill_expand.md` R142). -/
def execSolidB (s : State) : Host.Outcome State Fault Refusal := solid 1 s

/-- `SOLID.H` (`41_chunky_fill_expand.md` R142). -/
def execSolidH (s : State) : Host.Outcome State Fault Refusal := solid 2 s

/-- `SOLID.W` (`41_chunky_fill_expand.md` R142). -/
def execSolidW (s : State) : Host.Outcome State Fault Refusal := solid 4 s

/-- `SOLID` with `SZ` = 3 takes `BADBPP` as its first check, whatever the registers hold (`30_encoding.md` R95,
`60_exceptions.md` R236 stage 2). -/
def execSolidSz3 (s : State) : Host.Outcome State Fault Refusal := runCommand [some .badBpp] id s

/-! ## EXPAND -/

/-- The checks of `EXPAND` at pixel width b (`41_chunky_fill_expand.md` R146). -/
def expandChecks (b : Nat) (s : State) : List (Option PdiFault) :=
  [checkDim s, checkScale s, checkFits s (s.x.cx b)]

/-- The value that `EXPAND` writes to pixel (col, row): the `b` bytes of the source pixel (col / SX, row / SY), which stands in
a row of the scaled pitch (`41_chunky_fill_expand.md` R145, R146). -/
def State.expandPixel (s : State) (b col row : Nat) : Nat :=
  s.memRead (pixAddr s.x.chb.toNat s.x.w.toNat b (col / s.x.sx.toNat) (row / s.x.sy.toNat)) b

/-- `EXPAND` at pixel width b, defined from the contents of MEM at acceptance (`41_chunky_fill_expand.md` R146). -/
def expand (b : Nat) (s : State) : Host.Outcome State Fault Refusal :=
  runCommand (expandChecks b s)
    (fun s => s.setMem (s.mem.storeImage s.x.chb.toNat (s.x.w.toNat * b) s.x.w.toNat b
      (fun col row => s.expandPixel b col row) s.x.h.toNat)) s

/-- `EXPAND.B` (`41_chunky_fill_expand.md` R146). -/
def execExpandB (s : State) : Host.Outcome State Fault Refusal := expand 1 s

/-- `EXPAND.H` (`41_chunky_fill_expand.md` R146). -/
def execExpandH (s : State) : Host.Outcome State Fault Refusal := expand 2 s

/-- `EXPAND.W` (`41_chunky_fill_expand.md` R146). -/
def execExpandW (s : State) : Host.Outcome State Fault Refusal := expand 4 s

/-- `EXPAND` with `SZ` = 3 takes `BADBPP` as its first check, whatever the registers hold (`30_encoding.md` R95,
`60_exceptions.md` R236 stage 2). -/
def execExpandSz3 (s : State) : Host.Outcome State Fault Refusal := runCommand [some .badBpp] id s

end Sys2Proof.Machine
end

