-- ==== Sys2Proof/Machine/Nearest.lean ====
section
/-! DEFINITION. The nearest-colour search, NEAREST, RGB2PAL.NONE and its aliases (`43_nearest_quantize.md`). -/

namespace Sys2Proof.Machine

/-- The squared difference of two channels, a natural (`43_nearest_quantize.md` R181). -/
def sqDiff (a b : Byte) : Nat := ((a.toNat : Int) - (b.toNat : Int)).natAbs ^ 2

/-- `Dist`, the redmean distance of a colour and a palette entry (`43_nearest_quantize.md` R181). -/
def colourDist (c p : Colour) : Nat :=
  (512 + (c.red.toNat + p.red.toNat) / 2) * sqDiff c.red p.red + 1024 * sqDiff c.green p.green
    + (767 - (c.red.toNat + p.red.toNat) / 2) * sqDiff c.blue p.blue

/-- The scan of `n` further entries from index `i` on: stop on an exact match, and a tie keeps the earlier index
(`43_nearest_quantize.md` R182). -/
def nearestScan (dist : Nat → Nat) : Nat → Nat → Nat → Nat → Nat
  | 0, _, best, _ => best
  | n + 1, i, best, bestDist =>
    if bestDist = 0 then best
    else if dist i < bestDist then nearestScan dist n (i + 1) i (dist i)
    else nearestScan dist n (i + 1) best bestDist

/-- `Nearest` over the entries `first` to `num` − 1 of a palette (`43_nearest_quantize.md` R180, R182). -/
def nearest (pal : Nat → Colour) (c : Colour) (first num : Nat) : Nat :=
  nearestScan (fun i => colourDist c (pal i)) (num - (first + 1)) (first + 1) first (colourDist c (pal first))

/-! ## NEAREST -/

/-- The checks of `NEAREST` in order (`43_nearest_quantize.md` R184). -/
def nearestChecks (s : State) : List (Option PdiFault) :=
  [checkPal s, failIf (decide (s.x.paln.toNat ≤ s.x.palf.toNat)) .emptyPal, checkFits s s.x.px]

/-- `NEAREST`: the palette index found, zero-extended, in `RES`; MEM is not written (`43_nearest_quantize.md` R184). -/
def execNearest (s : State) : Host.Outcome State Fault Refusal :=
  runCommand (nearestChecks s)
    (fun s => s.setRes (BitVec.ofNat 32
      (nearest s.pal (queryColour s.x.color) s.x.palf.toNat s.x.paln.toNat))) s

/-! ## What every RGB2PAL shares -/

/-- The checks of `RGB2PAL`, the same for every kernel selector (`43_nearest_quantize.md` R188). -/
def rgb2palChecks (s : State) : List (Option PdiFault) :=
  [checkDim s, checkPal s, failIf (decide (s.x.paln.toNat = 0)) .emptyPal, checkFits s (s.x.cx 4), checkFits s s.x.px,
    checkFits s (s.x.dx 1), checkApart (s.x.dx 1) (s.x.cx 4), checkApart (s.x.dx 1) s.x.px]

/-- The search of the whole palette that `RGB2PAL` makes (`43_nearest_quantize.md` R188). -/
def State.paletteIndex (s : State) (c : Colour) : Nat := nearest s.pal c 0 s.x.paln.toNat

/-! ## RGB2PAL.NONE and the selectors 9 to 15 -/

/-- Direct mapping of each pixel, no error carried (`43_nearest_quantize.md` R186). -/
def rgb2palDirect (s : State) : Host.Outcome State Fault Refusal :=
  runCommand (rgb2palChecks s)
    (fun s => s.setMem (s.mem.storeImage s.x.dsb.toNat s.x.w.toNat s.x.w.toNat 1
      (fun col row => s.paletteIndex (s.sourcePixel col row)) s.x.h.toNat)) s

/-- `RGB2PAL.NONE` (`43_nearest_quantize.md` R186). -/
def execRgb2palNone (s : State) : Host.Outcome State Fault Refusal := rgb2palDirect s

/-- K = 9 executes as `RGB2PAL.NONE` (`43_nearest_quantize.md` R187). -/
def execRgb2palK9 (s : State) : Host.Outcome State Fault Refusal := rgb2palDirect s

/-- K = 10 executes as `RGB2PAL.NONE` (`43_nearest_quantize.md` R187). -/
def execRgb2palK10 (s : State) : Host.Outcome State Fault Refusal := rgb2palDirect s

/-- K = 11 executes as `RGB2PAL.NONE` (`43_nearest_quantize.md` R187). -/
def execRgb2palK11 (s : State) : Host.Outcome State Fault Refusal := rgb2palDirect s

/-- K = 12 executes as `RGB2PAL.NONE` (`43_nearest_quantize.md` R187). -/
def execRgb2palK12 (s : State) : Host.Outcome State Fault Refusal := rgb2palDirect s

/-- K = 13 executes as `RGB2PAL.NONE` (`43_nearest_quantize.md` R187). -/
def execRgb2palK13 (s : State) : Host.Outcome State Fault Refusal := rgb2palDirect s

/-- K = 14 executes as `RGB2PAL.NONE` (`43_nearest_quantize.md` R187). -/
def execRgb2palK14 (s : State) : Host.Outcome State Fault Refusal := rgb2palDirect s

/-- K = 15 executes as `RGB2PAL.NONE` (`43_nearest_quantize.md` R187). -/
def execRgb2palK15 (s : State) : Host.Outcome State Fault Refusal := rgb2palDirect s

end Sys2Proof.Machine
end

