-- ==== Sys2Proof/Machine/Dither.lean ====
section
/-! DEFINITION. The error-diffusion kernel engine, RGB2PAL.FS to RGB2PAL.SIERRALITE (`44_dither.md`). -/

namespace Sys2Proof.Machine

/-- One cell of accumulated error: a signed 16.16 integer per channel (`10_state.md` R34, `44_dither.md` R205). -/
structure ErrCell where
  red : Int
  green : Int
  blue : Int
deriving DecidableEq, Repr

/-- A cell of no error. -/
def ErrCell.zero : ErrCell := { red := 0, green := 0, blue := 0 }

/-- Adding error to a cell: exact integers, nothing rounded (`44_dither.md` R207). -/
def ErrCell.add (a b : ErrCell) : ErrCell :=
  { red := a.red + b.red, green := a.green + b.green, blue := a.blue + b.blue }

/-- A residual multiplied by a weight (`44_dither.md` R207). -/
def ErrCell.scale (a : ErrCell) (w : Nat) : ErrCell :=
  { red := a.red * w, green := a.green * w, blue := a.blue * w }

/-- The working state `E`: three rows of cells, row 0 the one being output (`44_dither.md` R205). -/
structure ErrWindow where
  row0 : List ErrCell
  row1 : List ErrCell
  row2 : List ErrCell
deriving DecidableEq, Repr

/-- A row of `w` cells of no error. -/
def zeroRow (w : Nat) : List ErrCell := List.replicate w ErrCell.zero

/-- `E` when the command starts (`44_dither.md` R205, R209). -/
def ErrWindow.zero (w : Nat) : ErrWindow := { row0 := zeroRow w, row1 := zeroRow w, row2 := zeroRow w }

/-- The accumulated error of a column of the row being output. -/
def ErrWindow.current (e : ErrWindow) (col : Nat) : ErrCell := e.row0.getD col ErrCell.zero

/-- Adding error to the cell in row `dy`, column `col` (`44_dither.md` R207). -/
def ErrWindow.addAt (e : ErrWindow) (dy : Fin 3) (col : Nat) (d : ErrCell) : ErrWindow :=
  match dy with
  | 0 => { e with row0 := e.row0.modify col (fun c => c.add d) }
  | 1 => { e with row1 := e.row1.modify col (fun c => c.add d) }
  | 2 => { e with row2 := e.row2.modify col (fun c => c.add d) }

/-- Row rotation after every row: row 1 to 0, row 2 to 1, a zero row as row 2 (`44_dither.md` R208). -/
def ErrWindow.rotate (e : ErrWindow) (w : Nat) : ErrWindow := { row0 := e.row1, row1 := e.row2, row2 := zeroRow w }

/-- `ediv(e)`: the accumulated error divided by 65536, rounded as ERRDIV says (`44_dither.md` R206). -/
def ediv (d : ErrDiv) (e : Int) : Int :=
  match d with
  | .trunc => Int.tdiv e 65536
  | .floor => Int.fdiv e 65536

/-- `clamp(v, lo, hi)` (`00_scope.md` R10). -/
def clamp (v lo hi : Int) : Int := if v < lo then lo else if hi < v then hi else v

/-- The corrected channel `q`: the source channel plus the error, clamped to 0 .. 255 (`44_dither.md` R206). -/
def correctChannel (d : ErrDiv) (src : Byte) (e : Int) : Byte :=
  BitVec.ofInt 8 (clamp ((src.toNat : Int) + ediv d e) 0 255)

/-- The corrected colour of a pixel (`44_dither.md` R206). -/
def correctColour (d : ErrDiv) (src : Colour) (e : ErrCell) : Colour where
  red := correctChannel d src.red e.red
  green := correctChannel d src.green e.green
  blue := correctChannel d src.blue e.blue

/-- The residual: clamped channel minus the chosen palette channel (`44_dither.md` R207). -/
def residual (q p : Colour) : ErrCell where
  red := (q.red.toNat : Int) - (p.red.toNat : Int)
  green := (q.green.toNat : Int) - (p.green.toNat : Int)
  blue := (q.blue.toNat : Int) - (p.blue.toNat : Int)

/-- Sending one share of a residual: a target outside the row is dropped; there is no test on the row
(`44_dither.md` R207). -/
def diffuseShare (w col : Nat) (res : ErrCell) (e : ErrWindow) (sh : Share) : ErrWindow :=
  if 0 ≤ (col : Int) + sh.dx ∧ (col : Int) + sh.dx < (w : Int) then
    e.addAt sh.dy ((col : Int) + sh.dx).toNat (res.scale sh.weight)
  else e

/-- Diffusing a residual through `T(k)` (`44_dither.md` R207). -/
def diffuse (shares : List Share) (w col : Nat) (res : ErrCell) (e : ErrWindow) : ErrWindow :=
  shares.foldl (diffuseShare w col res) e

/-- What the engine needs to know besides the pixels: the rounding, `T(k)`, the palette, the search and the width. -/
structure DitherContext where
  errDiv : ErrDiv
  shares : List Share
  pal : Nat → Colour
  choose : Colour → Nat
  width : Nat

/-- One pixel: correct, choose, take the residual, diffuse it; the index chosen and the new `E` (`44_dither.md` R206, R207,
R209). -/
def ditherPixel (cx : DitherContext) (e : ErrWindow) (col : Nat) (src : Colour) : Nat × ErrWindow :=
  let q := correctColour cx.errDiv src (e.current col)
  let idx := cx.choose q
  (idx, diffuse cx.shares cx.width col (residual q (cx.pal idx)) e)

/-- The first `n` pixels of a row, left to right: their indices in order and `E` after them (`44_dither.md` R209). -/
def ditherRow (cx : DitherContext) (src : Nat → Colour) (e : ErrWindow) : Nat → List Nat × ErrWindow
  | 0 => ([], e)
  | n + 1 =>
    let before := ditherRow cx src e n
    let here := ditherPixel cx before.2 n (src n)
    (before.1 ++ [here.1], here.2)

/-- The first `n` rows, top to bottom, with the rotation after each: their indices in raster order and `E` after them
(`44_dither.md` R208, R209). -/
def ditherRows (cx : DitherContext) (src : Nat → Nat → Colour) : Nat → List Nat × ErrWindow
  | 0 => ([], ErrWindow.zero cx.width)
  | n + 1 =>
    let before := ditherRows cx src n
    let here := ditherRow cx (fun col => src col n) before.2 cx.width
    (before.1 ++ here.1, here.2.rotate cx.width)

/-- The context of a command with kernel `k` (`43_nearest_quantize.md` R188, `44_dither.md` R209). -/
def State.ditherContext (s : State) (k : KernelId) : DitherContext where
  errDiv := s.cfg.errDiv
  shares := kernelShares (kernelOf s.cfg.krom k)
  pal := s.pal
  choose := s.paletteIndex
  width := s.x.w.toNat

/-- The output bytes in raster order (`44_dither.md` R209). -/
def State.ditherOutput (s : State) (k : KernelId) : List Byte :=
  (ditherRows (s.ditherContext k) s.sourcePixel s.x.h.toNat).1.map (BitVec.ofNat 8)

/-- `RGB2PAL` with a built-in kernel: every row top to bottom, every pixel left to right (`44_dither.md` R209). -/
def rgb2palDither (k : KernelId) (s : State) : Host.Outcome State Fault Refusal :=
  runCommand (rgb2palChecks s)
    (fun s => s.setMem (s.mem.storeBytes s.x.dsb.toNat (s.ditherOutput k))) s

/-- `RGB2PAL.FS` (`44_dither.md` R210). -/
def execRgb2palFs (s : State) : Host.Outcome State Fault Refusal := rgb2palDither .floydSteinberg s

/-- `RGB2PAL.JJN` (`44_dither.md` R211). -/
def execRgb2palJjn (s : State) : Host.Outcome State Fault Refusal := rgb2palDither .jarvisJudiceNinke s

/-- `RGB2PAL.STUCKI` (`44_dither.md` R212). -/
def execRgb2palStucki (s : State) : Host.Outcome State Fault Refusal := rgb2palDither .stucki s

/-- `RGB2PAL.BURKES` (`44_dither.md` R213). -/
def execRgb2palBurkes (s : State) : Host.Outcome State Fault Refusal := rgb2palDither .burkes s

/-- `RGB2PAL.ATKINSON` (`44_dither.md` R214). -/
def execRgb2palAtkinson (s : State) : Host.Outcome State Fault Refusal := rgb2palDither .atkinson s

/-- `RGB2PAL.SIERRA3` (`44_dither.md` R215). -/
def execRgb2palSierra3 (s : State) : Host.Outcome State Fault Refusal := rgb2palDither .sierra3 s

/-- `RGB2PAL.SIERRA2` (`44_dither.md` R216). -/
def execRgb2palSierra2 (s : State) : Host.Outcome State Fault Refusal := rgb2palDither .sierra2 s

/-- `RGB2PAL.SIERRALITE` (`44_dither.md` R217). -/
def execRgb2palSierralite (s : State) : Host.Outcome State Fault Refusal := rgb2palDither .sierraLite s

end Sys2Proof.Machine
end

