-- ==== Sys2Proof/Machine/Ham.lean ====
section
/-! DEFINITION. HAM colour reconstruction, HAM6 and HAM8 (`42_ham.md`). -/

namespace Sys2Proof.Machine

/-- What one HAM code does to the running colour (`42_ham.md` R165). -/
inductive HamAction where
  /-- Replace it by palette entry `index`. -/
  | base (index : Nat)
  /-- Replace its blue channel. -/
  | blue (intensity : Byte)
  /-- Replace its red channel. -/
  | red (intensity : Byte)
  /-- Replace its green channel. -/
  | green (intensity : Byte)
deriving DecidableEq, Repr

/-- The four modes: 00 new base colour, 01 blue, 10 red, 11 green (`42_ham.md` R165). PRESUMED for the three modify codes: the
rule takes them from general knowledge; log 10. -/
def hamAction (mode : Nat) (code intensity : Byte) : HamAction :=
  match mode with
  | 0 => .base code.toNat
  | 1 => .blue intensity
  | 2 => .red intensity
  | _ => .green intensity

/-- Decoding a HAM6 code: mode c[5:4], data v = c[3:0], intensity (v << 4) | v (`42_ham.md` R162). -/
def ham6Action (c : Byte) : HamAction :=
  hamAction ((c >>> 4) &&& 3).toNat c (((c &&& 0x0F) <<< 4) ||| (c &&& 0x0F))

/-- Decoding a HAM8 code: mode c[7:6], data v = c[5:0], intensity ((v << 2) | (v >> 4))[7:0] (`42_ham.md` R162, R164). -/
def ham8Action (c : Byte) : HamAction :=
  hamAction (c >>> 6).toNat c (((c &&& 0x3F) <<< 2) ||| ((c &&& 0x3F) >>> 4))

/-- The running colour after one code (`42_ham.md` R165). -/
def HamAction.apply (pal : Nat → Colour) (hcr : Colour) : HamAction → Colour
  | .base i => pal i
  | .blue v => { hcr with blue := v }
  | .red v => { hcr with red := v }
  | .green v => { hcr with green := v }

/-- The running colours after each code of the image in raster order, `HCR` never reset at a row boundary
(`42_ham.md` R161). -/
def hamRun (action : Byte → HamAction) (pal : Nat → Colour) : Colour → List Byte → List Colour
  | _, [] => []
  | hcr, c :: rest =>
    (action c).apply pal hcr :: hamRun action pal ((action c).apply pal hcr) rest

/-- The source bytes of a HAM command, pixel number i = y·W + x at `x[CHB]` + i (`42_ham.md` R161). -/
def State.hamSource (s : State) : List Byte := s.readBytes s.x.chb.toNat (s.x.w.toNat * s.x.h.toNat)

/-- The bytes a HAM command writes from `x[DSB]` on: each running colour as an opaque RGBA pixel, `HCR` starting at `Pal(0)`
(`42_ham.md` R161, R163). -/
def State.hamOutput (s : State) (action : Byte → HamAction) : List Byte :=
  (hamRun action s.pal (s.pal 0) s.hamSource).flatMap Colour.rgbaBytes

/-- The checks that HAM6 and HAM8 share, stages 5 to 11 (`42_ham.md` R163, R164). -/
def hamChecks (least : Nat) (s : State) : List (Option PdiFault) :=
  [checkDim s, checkPal s, checkPalMin least s, checkFits s (s.x.cx 1), checkFits s s.x.px, checkFits s (s.x.dx 4),
    checkApart (s.x.dx 4) (s.x.cx 1), checkApart (s.x.dx 4) s.x.px]

/-- Stage 12: the first source byte, in raster order, with a bit above its 6-bit code (`42_ham.md` R166). -/
def checkPixels (s : State) : Option PdiFault :=
  (s.hamSource.findIdx? (fun c : Byte => decide (c >>> 6 ≠ 0))).map PdiFault.badPixel

/-- `HAM6` (`42_ham.md` R163, R166). -/
def execHam6 (s : State) : Host.Outcome State Fault Refusal :=
  runCommand (hamChecks 16 s ++ [checkPixels s])
    (fun s => s.setMem (s.mem.storeBytes s.x.dsb.toNat (s.hamOutput ham6Action))) s

/-- `HAM8` (`42_ham.md` R164). -/
def execHam8 (s : State) : Host.Outcome State Fault Refusal :=
  runCommand (hamChecks 64 s)
    (fun s => s.setMem (s.mem.storeBytes s.x.dsb.toNat (s.hamOutput ham8Action))) s

end Sys2Proof.Machine
end

