-- ==== Sys2Proof/Machine/Planar.lean ====
section
/-! DEFINITION. The planar commands PLCLR, FILLP and DEINT (`40_planar.md`). -/

namespace Sys2Proof.Machine

/-! ## PLCLR -/

/-- The checks of `PLCLR` in order (`40_planar.md` R121). -/
def plclrChecks (s : State) : List (Option PdiFault) := [checkPlanes s, checkDim s, checkFits s s.x.plx]

/-- `PLCLR`: every byte of `PLX` becomes 0x00 (`40_planar.md` R121). -/
def execPlclr (s : State) : Host.Outcome State Fault Refusal :=
  runCommand (plclrChecks s)
    (fun s => s.setMem (s.mem.storeBytes s.x.plx.base (List.replicate s.x.plx.len 0x00))) s

/-! ## FILLP -/

/-- Stage 4: the plane index is not below the plane count (`60_exceptions.md` R236). -/
def checkPlane (plane : Nat) (s : State) : Option PdiFault := failIf (decide (s.x.npl.toNat ≤ plane)) .badPlane

/-- The checks of `FILLP` in order (`40_planar.md` R123). -/
def fillpChecks (plane : Nat) (s : State) : List (Option PdiFault) :=
  [checkPlanes s, checkPlane plane s, checkDim s, checkFits s s.x.plx]

/-- `FILLP plane, set`: every byte of that plane becomes 0xFF if `set`, else 0x00, padding columns included
(`40_planar.md` R123). -/
def execFillp (plane : Nat) (set : Bool) (s : State) : Host.Outcome State Fault Refusal :=
  runCommand (fillpChecks plane s)
    (fun s => s.setMem (s.mem.storeBytes (s.x.plb.toNat + plane * s.x.planeSize)
      (List.replicate s.x.planeSize (if set then 0xFF else 0x00)))) s

/-! ## DEINT -/

/-- The sample of plane k at (col, row): bit 7 − (col mod 8) of the plane's byte (`20_memory.md` R61, R62). -/
def State.planeBit (s : State) (k col row : Nat) : Bool :=
  (s.readByte (s.x.planeAddr k col row)).getLsbD (7 - col % 8)

/-- The accumulator `ACC` over planes n − 1 down to 0: shift left one bit and OR in the plane's bit
(`40_planar.md` R126). -/
def accumulate (bit : Nat → Bool) : Nat → Nat → Nat
  | 0, acc => acc
  | k + 1, acc => accumulate bit k (2 * acc + (bit k).toNat)

/-- The value of the deinterleaved pixel (col, row): `ACC` starts at 0 for every pixel (`40_planar.md` R126, R127). -/
def State.deintPixel (s : State) (col row : Nat) : Nat :=
  accumulate (fun k => s.planeBit k col row) s.x.npl.toNat 0

/-- The checks of `DEINT` after the plane count, when it is not 0 (`40_planar.md` R126). -/
def deintChecks (s : State) : List (Option PdiFault) :=
  [checkDim s, checkFits s s.x.plx, checkFits s s.x.ddx, checkApart s.x.ddx s.x.plx]

/-- `DEINT`: one packed pixel per column of the planes; with no planes it completes at once and touches nothing
(`40_planar.md` R126, R130). -/
def execDeint (s : State) : Host.Outcome State Fault Refusal :=
  runCommand (checkPlanes s :: (if s.x.npl.toNat = 0 then [] else deintChecks s))
    (fun s =>
      if s.x.npl.toNat = 0 then s
      else s.setMem (s.mem.storeImage s.x.chb.toNat s.x.deintStride s.x.w.toNat (bpp s.x.npl.toNat)
        s.deintPixel s.x.h.toNat)) s

end Sys2Proof.Machine
end

