-- ==== Sys2Proof/Machine/Dispatch.lean ====
section
/-! DEFINITION. `exec`: one arm per constructor of `Instr`, each one direct call of the command's meaning. -/

namespace Sys2Proof.Machine

open Sys2Proof

def exec (i : Instr) (s : State) : Host.Outcome State Fault Refusal :=
  match i with
  | .plclr => Sys2Proof.Machine.execPlclr s
  | .fillp plane set => Sys2Proof.Machine.execFillp plane set s
  | .deint => Sys2Proof.Machine.execDeint s
  | .solidB => Sys2Proof.Machine.execSolidB s
  | .solidH => Sys2Proof.Machine.execSolidH s
  | .solidW => Sys2Proof.Machine.execSolidW s
  | .solidSz3 => Sys2Proof.Machine.execSolidSz3 s
  | .expandB => Sys2Proof.Machine.execExpandB s
  | .expandH => Sys2Proof.Machine.execExpandH s
  | .expandW => Sys2Proof.Machine.execExpandW s
  | .expandSz3 => Sys2Proof.Machine.execExpandSz3 s
  | .ham6 => Sys2Proof.Machine.execHam6 s
  | .ham8 => Sys2Proof.Machine.execHam8 s
  | .rgb2palNone => Sys2Proof.Machine.execRgb2palNone s
  | .rgb2palFs => Sys2Proof.Machine.execRgb2palFs s
  | .rgb2palJjn => Sys2Proof.Machine.execRgb2palJjn s
  | .rgb2palStucki => Sys2Proof.Machine.execRgb2palStucki s
  | .rgb2palBurkes => Sys2Proof.Machine.execRgb2palBurkes s
  | .rgb2palAtkinson => Sys2Proof.Machine.execRgb2palAtkinson s
  | .rgb2palSierra3 => Sys2Proof.Machine.execRgb2palSierra3 s
  | .rgb2palSierra2 => Sys2Proof.Machine.execRgb2palSierra2 s
  | .rgb2palSierralite => Sys2Proof.Machine.execRgb2palSierralite s
  | .rgb2palK9 => Sys2Proof.Machine.execRgb2palK9 s
  | .rgb2palK10 => Sys2Proof.Machine.execRgb2palK10 s
  | .rgb2palK11 => Sys2Proof.Machine.execRgb2palK11 s
  | .rgb2palK12 => Sys2Proof.Machine.execRgb2palK12 s
  | .rgb2palK13 => Sys2Proof.Machine.execRgb2palK13 s
  | .rgb2palK14 => Sys2Proof.Machine.execRgb2palK14 s
  | .rgb2palK15 => Sys2Proof.Machine.execRgb2palK15 s
  | .nearest => Sys2Proof.Machine.execNearest s

end Sys2Proof.Machine
end

