-- ==== Sys2Proof/Machine/Registers.lean ====
section
/-! DEFINITION. The register space (`10_state.md` R22, R23) and the host's moves (R21): reads and writes of registers and of MEM,
and `Reset` (R39). -/

namespace Sys2Proof.Machine

/-- What stands at a register offset (`10_state.md` R22). -/
inductive Reg where
  | id
  | ctrl
  | status
  | errCode
  | errInfo
  | cmd
  | res
  | memSz
  | operand (r : OpReg)
  | reserved
deriving DecidableEq, Repr

/-- The operand register of index i, none above 12 (`10_state.md` R24). -/
def opRegAt : Nat → Option OpReg
  | 0 => some .plb
  | 1 => some .chb
  | 2 => some .dsb
  | 3 => some .palb
  | 4 => some .paln
  | 5 => some .palf
  | 6 => some .w
  | 7 => some .h
  | 8 => some .npl
  | 9 => some .xtra
  | 10 => some .sx
  | 11 => some .sy
  | 12 => some .color
  | _ => none

/-- The index of an operand register (`10_state.md` R24). -/
def OpReg.index : OpReg → Nat
  | .plb => 0
  | .chb => 1
  | .dsb => 2
  | .palb => 3
  | .paln => 4
  | .palf => 5
  | .w => 6
  | .h => 7
  | .npl => 8
  | .xtra => 9
  | .sx => 10
  | .sy => 11
  | .color => 12

/-- The register of word index n, that is, at offset 4·n (`10_state.md` R22). -/
def regOfIndex : Nat → Reg
  | 0 => .id
  | 1 => .ctrl
  | 2 => .status
  | 3 => .errCode
  | 4 => .errInfo
  | 5 => .cmd
  | 6 => .res
  | 7 => .memSz
  | n =>
    if n < 16 then .reserved
    else match opRegAt (n - 16) with
      | some r => .operand r
      | none => .reserved

/-- The register at an offset; none where the host has no such access: an offset that is not a multiple of 4 or is above 0xFC
(`10_state.md` R23). -/
def regAt (off : Nat) : Option Reg :=
  if off % 4 = 0 ∧ off ≤ 0xFC then some (regOfIndex (off / 4)) else none

/-- The offset of an operand register (`10_state.md` R22). -/
def OpReg.offset (r : OpReg) : Nat := 0x40 + 4 * r.index

/-- What a `RegRead` returns (`10_state.md` R22 to R35); a reserved offset reads 0 (R23). -/
def State.regValue (s : State) : Reg → Word
  | .id => Config.idWord
  | .ctrl => ctrlWord s.ien
  | .status => statusWord s.status
  | .errCode => s.errCode.setWidth 32
  | .errInfo => s.errInfo
  | .cmd => s.cur
  | .res => s.res
  | .memSz => BitVec.ofNat 32 s.cfg.memSize
  | .operand r => s.x.get r
  | .reserved => 0

/-- A host write that is dropped sets OVR and nothing else (`10_state.md` R25, R32). -/
def State.dropWrite (s : State) : State := { s with status := s.status.overrun }

/-- A write to an operand register: stored when BUSY = 0, dropped when BUSY = 1 (`10_state.md` R25). -/
def State.writeOperand (s : State) (r : OpReg) (v : Word) : State :=
  if s.status.busy then s.dropWrite else { s with x := s.x.set r v }

/-- ACCEPTANCE: `CUR` latched, BUSY 1, DONE 0, nothing else changes; nothing is decoded or checked (`10_state.md` R32). -/
def State.accept (s : State) (v : Word) : State := { s with cur := v, status := s.status.accepted }

/-- A write to `CMD`: an acceptance when neither BUSY nor ERR, otherwise dropped (`10_state.md` R32). -/
def State.writeCmd (s : State) (v : Word) : State :=
  if s.status.accepts then s.accept v else s.dropWrite

/-- The effect of a `RegWrite`; a write to a read-only register or a reserved offset changes nothing and sets no flag
(`10_state.md` R22, R23). -/
def State.writeReg (s : State) (r : Reg) (v : Word) : State :=
  match r with
  | .id => s
  | .ctrl => { s with ien := v.getLsbD 0 }
  | .status => s.writeStatus v
  | .errCode => s
  | .errInfo => s
  | .cmd => s.writeCmd v
  | .res => s
  | .memSz => s
  | .operand r => s.writeOperand r v
  | .reserved => s

/-- The environment learns what a read returned (log 4). -/
def State.reply (s : State) (r : Reply) : State := { s with replies := s.replies ++ [r] }

/-- `Reset`: every register at its reset value and every byte of MEM unspecified, also when a command was in flight; the
instance's constants stay (`10_state.md` R39, `70_reset_and_hazards.md` R260). The turns still to come and the replies belong to
the environment and stay (log 4). -/
def State.doReset (s : State) : State :=
  { State.resetOf s.cfg (s.epoch + 1) with script := s.script, replies := s.replies }

/-- A host access to MEM: refused while BUSY, a fault outside MEM, else done (`70_reset_and_hazards.md` R264,
`10_state.md` R37). -/
def hostMemAccess (s : State) (a : Nat) (done : State) : Host.Outcome State Fault Refusal :=
  if s.status.busy then .refused .memoryWhileBusy
  else if s.cfg.memSize ≤ a then .fault .noSuchAddress
  else .next done

/-- A `RegRead` (`10_state.md` R22, R23): it changes no state of PDI. -/
def hostRegRead (s : State) (off : Nat) : Host.Outcome State Fault Refusal :=
  match regAt off with
  | none => .refused .noSuchRegister
  | some r => .next (s.reply (.reg (s.regValue r)))

/-- A `RegWrite` (`10_state.md` R22, R23). -/
def hostRegWrite (s : State) (off : Nat) (v : Word) : Host.Outcome State Fault Refusal :=
  match regAt off with
  | none => .refused .noSuchRegister
  | some r => .next (s.writeReg r v)

/-- One move of the host (`10_state.md` R21). -/
def hostMove (m : HostMove) (s : State) : Host.Outcome State Fault Refusal :=
  match m with
  | .regRead off => hostRegRead s off
  | .regWrite off v => hostRegWrite s off v
  | .memRead a => hostMemAccess s a (s.reply (.mem (s.readByte a)))
  | .memWrite a b => hostMemAccess s a (s.setMem (s.mem.store a b))
  | .reset => .next s.doReset

end Sys2Proof.Machine
end

