-- ==== Sys2Proof/Machine/Engine.lean ====
section
/-! DEFINITION. The engine's move `Execute` (`10_state.md` R21) and the turns of host and engine. -/

namespace Sys2Proof.Machine

/-- `Execute`: the word in `CUR` is decoded (`30_encoding.md` R93); an illegal word raises `ILLCMD` before any register is
examined, any other runs its command to its end (`60_exceptions.md` R230). -/
def execute (s : State) : Host.Outcome State Fault Refusal :=
  match decode s.cur with
  | .ok i => exec i s
  | .error _ => .next (s.raise .illCmd)

/-- The engine's turn: `Execute` exactly when BUSY = 1, otherwise PDI is idle and keeps all state (`10_state.md` R21,
`60_exceptions.md` R244). -/
def engineTurn (s : State) : Host.Outcome State Fault Refusal :=
  if s.status.busy then execute s else .next s

/-- `WAIT`: `STATUS` is read; while BUSY reads 1 the engine gets a turn and the poll is made again (`30_encoding.md` R102; the
engine's turn is the weak fairness of `10_state.md` R21, log 5). -/
def pollTurn (s : State) (rest : List Turn) : Host.Outcome State Fault Refusal :=
  let after := s.reply (.reg (s.regValue .status))
  .next { after with script := if s.status.busy then .engine :: .wait :: rest else rest }

/-- The next turn of the interleaving; an empty script is the engine's turn (logs 4 and 5). -/
def nextTurn (s : State) : Host.Outcome State Fault Refusal :=
  match s.script with
  | [] => engineTurn s
  | .engine :: rest => engineTurn { s with script := rest }
  | .host m :: rest => hostMove m { s with script := rest }
  | .wait :: rest => pollTurn s rest

/-- A command placed as an accepted `CMD` write leaves it (`10_state.md` R32), with the engine's turn next (log 14). -/
def State.issue (s : State) (c : Word) : State := { s.accept c with script := [] }

end Sys2Proof.Machine
end

