-- ==== Sys2Proof/Machine/Step.lean ====
section
/-! DEFINITION. The step of the machine and the placing of one command where the next step runs it. -/

namespace Sys2Proof.Machine

/-- One step: the next turn of host and engine (`10_state.md` R21). -/
def step (s : State) : Host.Outcome State Fault Refusal := nextTurn s

/-- The state with the instruction of `nbits` bits `w` in `CUR`, accepted, and the engine's turn next. PDI fetches nothing
(`10_state.md` R28): this stands for the host's accepted write of `CMD` (log 14). -/
def State.withFetchWord (s : State) (nbits w : Nat) : State := s.issue (BitVec.ofNat 32 (w % 2 ^ nbits))

end Sys2Proof.Machine
end

