-- ==== Sys2Proof/Machine/Script.lean ====
section
/-! DEFINITION. PDI assembly: the lines of `30_encoding.md` R102 as turns of the host, and the pseudo-instructions of R104 and
R106. -/

namespace Sys2Proof.Machine

/-- The flags an `ACK` line names (`30_encoding.md` R102). -/
structure AckFlags where
  done : Bool
  err : Bool
  ovr : Bool
deriving DecidableEq, Repr

/-- One line of PDI assembly (`30_encoding.md` R102). -/
inductive Line where
  /-- `WR reg, value`, the register given by its offset. -/
  | wr (off : Nat) (v : Word)
  /-- `RD reg`. -/
  | rd (off : Nat)
  /-- `MW addr, b0 b1 ... bn`. -/
  | mw (addr : Nat) (bytes : List Byte)
  /-- `MR addr, n`. -/
  | mr (addr n : Nat)
  /-- A command mnemonic with its selectors. -/
  | command (i : Instr)
  /-- `WAIT`. -/
  | wait
  /-- `ACK flags`. -/
  | ack (flags : AckFlags)
  /-- `RESET`. -/
  | reset
deriving DecidableEq, Repr

/-- `HostMemWrite(addr + i, bi)` in order (`30_encoding.md` R102 `MW`). -/
def memWrites : Nat → List Byte → List Turn
  | _, [] => []
  | a, b :: rest => .host (.memWrite a b) :: memWrites (a + 1) rest

/-- `HostMemRead(addr + i)` in order (`30_encoding.md` R102 `MR`). -/
def memReads : Nat → Nat → List Turn
  | _, 0 => []
  | a, n + 1 => .host (.memRead a) :: memReads (a + 1) n

/-- The mask an `ACK` line writes to `STATUS`: bits 1, 2, 3 for DONE, ERR, OVR (`30_encoding.md` R102). -/
def ackMask (f : AckFlags) : Word := flagAt 1 f.done ||| flagAt 2 f.err ||| flagAt 3 f.ovr

/-- The host moves of a line (`30_encoding.md` R102). -/
def Line.turns : Line → List Turn
  | .wr off v => [.host (.regWrite off v)]
  | .rd off => [.host (.regRead off)]
  | .mw addr bytes => memWrites addr bytes
  | .mr addr n => memReads addr n
  | .command i => [.host (.regWrite 0x14 (encode i))]
  | .wait => [.wait]
  | .ack flags => [.host (.regWrite 0x08 (ackMask flags))]
  | .reset => [.host .reset]

/-- The turns of a script, line by line. -/
def scriptTurns (lines : List Line) : List Turn := lines.flatMap Line.turns

/-- `WR` of an operand register. -/
def wrOp (r : OpReg) (v : Nat) : Line := .wr r.offset (BitVec.ofNat 32 v)

/-- The `SOLID` command of a pixel width: `SOLID.B`, `SOLID.H`, `SOLID.W` for b = 1, 2, 4 (`30_encoding.md` R95, R104; a bitmap's
width is one of these, `20_memory.md` R63). DESIGN CHOICE, unsafe: R104 gives no line for another b, and the model writes `SOLID.W`
there (log 17). -/
def solidOf (b : Nat) : Instr := if b = 1 then .solidB else if b = 2 then .solidH else .solidW

/-- The `EXPAND` command of a pixel width: `EXPAND.B`, `EXPAND.H`, `EXPAND.W` for b = 1, 2, 4 (`30_encoding.md` R95, R104). It is
used with `bpp npl` alone, which has no other value (`20_memory.md` R78). -/
def expandOf (b : Nat) : Instr := if b = 1 then .expandB else if b = 2 then .expandH else .expandW

/-- `RGB2PAL n` for any integer n: the kernel n if 1 ≤ n ≤ 8, else `RGB2PAL.NONE` (`30_encoding.md` R104). -/
def rgb2palN (n : Int) : List Line :=
  [.command (if 1 ≤ n ∧ n ≤ 8 then kernelInstr n.toNat else .rgb2palNone)]

/-- `PLANAR2CHUNKY plb, chb, w, h, npl, sx, sy`: deinterleave into the top-left of the scaled bitmap, then expand if a factor is
not 1 (`30_encoding.md` R104). -/
def planar2chunky (plb chb w h npl sx sy : Nat) : List Line :=
  [wrOp .plb plb, wrOp .chb chb, wrOp .w w, wrOp .h h, wrOp .npl npl, wrOp .xtra (w * bpp npl * (sx - 1)),
    .command .deint, .wait]
  ++ (if sx ≠ 1 ∨ sy ≠ 1 then
        [wrOp .w (w * sx), wrOp .h (h * sy), wrOp .sx sx, wrOp .sy sy, .command (expandOf (bpp npl)), .wait]
      else [])

/-- `CLONEFILL chb, w, h, b, color` (`30_encoding.md` R104); for b outside {1, 2, 4}, which R104 leaves open, see `solidOf`
(log 17). -/
def cloneFill (chb w h b color : Nat) : List Line :=
  [wrOp .chb chb, wrOp .w w, wrOp .h h, wrOp .color color, .command (solidOf b), .wait]

/-- `CHALLOC w, h, b` expands to no line at all (`30_encoding.md` R106). -/
def chAlloc (_w _h _b : Nat) : List Line := []

/-- `PLALLOC plb, w, h, npl` (`30_encoding.md` R106). -/
def plAlloc (plb w h npl : Nat) : List Line :=
  [wrOp .plb plb, wrOp .w w, wrOp .h h, wrOp .npl npl, .command .plclr, .wait]

end Sys2Proof.Machine
end

