-- ==== Sys2Proof/Safety.lean ====
section
/-! DEFINITION. What counts as a safe state and a safe run, in the terms the statements use. -/

namespace Sys2Proof.Machine

/-- MEM lists no address outside 0 .. MEMSIZE − 1 (`10_state.md` R37). -/
def memInside (s : State) : Bool := s.mem.all (fun c => decide (c.1 < s.cfg.memSize))

/-- The invariants of `STATUS` (`10_state.md` R29): BUSY excludes DONE and ERR, DONE excludes ERR, and ERR = 0 means `ERRCODE` =
`ERRINFO` = 0. -/
def statusInvariant (s : State) : Bool :=
  (!s.status.busy || (!s.status.done && !s.status.err)) && !(s.status.done && s.status.err)
    && (s.status.err || (decide (s.errCode = 0) && decide (s.errInfo = 0)))

/-- What a fault leaves: a code from 1 to 12 while ERR is set, and a detail word only with `BADPIXEL`
(`60_exceptions.md` R233, R234). -/
def faultRecordInvariant (s : State) : Bool :=
  decide (s.errCode.toNat ≤ 12) && (!s.status.err || decide (s.errCode ≠ 0))
    && (decide (s.errInfo = 0) || decide (s.errCode = 12))

/-- The invariant that every step keeps: a legal instance (`00_scope.md` R6), MEM in canonical form and inside its bounds, the
invariants of `STATUS` and of the fault record, and `RES` an index below 256 (`43_nearest_quantize.md` R184). -/
def State.inv (s : State) : Bool :=
  s.cfg.legal && s.mem.wf && memInside s && statusInvariant s && faultRecordInvariant s && decide (s.res.toNat < 256)

/-- A run of n steps is safe when it makes no move the host does not have: it ends in a next state. -/
def safeRun (n : Nat) (s : State) : Bool :=
  match Sys2Proof.core.run n s with
  | .next _ => true
  | .fault _ => false
  | .refused _ => false

end Sys2Proof.Machine
end

