-- ==== Sys2Proof/Certificates/Slice0/Obligations.lean ====
section
/-! DEFINITION. The statements for the provers, each formalising rules of `spec/`, and the terms they are stated in. The terms
(namespace `Sys2Proof.Spec`) write the spec's formulas out by themselves, on the operand registers and through the model's read
of one byte of MEM, `State.readByte`. -/

namespace Sys2Proof.Spec

open Sys2Proof.Machine

/-! ## How a command ends -/

/-- `t` is `s` after a completion (`60_exceptions.md` R231): BUSY 0, DONE 1, and nothing else changed but MEM and `RES`. -/
def Completed (s t : State) : Prop :=
  t = { s with mem := t.mem, res := t.res, status := { s.status with busy := false, done := true } }

/-- `t` is `s` after the fault `code` with detail `info` (`60_exceptions.md` R232): BUSY 0, ERR 1, `ERRCODE` and `ERRINFO`
written, nothing else changed, MEM and `RES` among it. -/
def Faulted (s t : State) (code info : Nat) : Prop :=
  t = { s with
        status := { s.status with busy := false, err := true }
        errCode := BitVec.ofNat 8 code
        errInfo := BitVec.ofNat 32 info }

/-! ## Geometry and extents, on the operand registers (`20_memory.md` R62 to R64, R69, R78) -/

/-- 1 ≤ W ≤ MAXDIM and 1 ≤ H ≤ MAXDIM. -/
def DimsOk (s : State) : Prop :=
  1 ≤ s.x.w.toNat ∧ s.x.w.toNat ≤ s.cfg.maxDim ∧ 1 ≤ s.x.h.toNat ∧ s.x.h.toNat ≤ s.cfg.maxDim

/-- SX and SY at least 1 and dividing W and H. -/
def ScaleOk (s : State) : Prop :=
  1 ≤ s.x.sx.toNat ∧ 1 ≤ s.x.sy.toNat ∧ s.x.sx.toNat ∣ s.x.w.toNat ∧ s.x.sy.toNat ∣ s.x.h.toNat

/-- The row stride of a plane. -/
def pitch (w : Nat) : Nat := (w + 15) / 16 * 2

/-- The size of one plane. -/
def planeBytes (s : State) : Nat := pitch s.x.w.toNat * s.x.h.toNat

/-- Bytes per pixel of a deinterleaved image. -/
def pixelWidth (planes : Nat) : Nat := if planes ≤ 8 then 1 else if planes ≤ 16 then 2 else 4

/-- A byte range given by its first address and its length. -/
abbrev Range := Nat × Nat

/-- The range lies inside MEM, without wrap-around (`20_memory.md` R70). -/
def InMem (s : State) (r : Range) : Prop := r.1 + r.2 ≤ s.cfg.memSize

/-- The address lies in the range. -/
def Within (a : Nat) (r : Range) : Prop := r.1 ≤ a ∧ a < r.1 + r.2

/-- Two ranges overlap (`20_memory.md` R71). -/
def Overlap (r q : Range) : Prop := 0 < r.2 ∧ 0 < q.2 ∧ r.1 < q.1 + q.2 ∧ q.1 < r.1 + r.2

/-- `PLX`. -/
def plxRange (s : State) : Range := (s.x.plb.toNat, planeBytes s * max s.x.npl.toNat 8)

/-- The row stride of `DEINT`'s destination. -/
def destStride (s : State) : Nat := s.x.w.toNat * pixelWidth s.x.npl.toNat + s.x.xtra.toNat

/-- `DDX`. -/
def ddxRange (s : State) : Range := (s.x.chb.toNat, s.x.h.toNat * destStride s)

/-- `CX(b)`. -/
def cxRange (s : State) (b : Nat) : Range := (s.x.chb.toNat, s.x.w.toNat * s.x.h.toNat * b)

/-- `DX(b)`. -/
def dxRange (s : State) (b : Nat) : Range := (s.x.dsb.toNat, s.x.w.toNat * s.x.h.toNat * b)

/-- `PX`. -/
def pxRange (s : State) : Range := (s.x.palb.toNat, 3 * s.x.paln.toNat)

/-- The sample of plane k at column x, row y (`20_memory.md` R61, R62). -/
def sample (s : State) (k x y : Nat) : Bool :=
  (s.readByte (s.x.plb.toNat + k * planeBytes s + y * pitch s.x.w.toNat + x / 8)).getLsbD (7 - x % 8)

/-- Palette entry i (`20_memory.md` R64). -/
def entry (s : State) (i : Nat) : Colour where
  red := s.readByte (s.x.palb.toNat + 3 * i)
  green := s.readByte (s.x.palb.toNat + 3 * i + 1)
  blue := s.readByte (s.x.palb.toNat + 3 * i + 2)

/-- Source pixel (x, y) of `RGB2PAL` (`43_nearest_quantize.md` R188). -/
def sourceAt (s : State) (x y : Nat) : Colour where
  red := s.readByte (s.x.chb.toNat + 4 * (y * s.x.w.toNat + x))
  green := s.readByte (s.x.chb.toNat + 4 * (y * s.x.w.toNat + x) + 1)
  blue := s.readByte (s.x.chb.toNat + 4 * (y * s.x.w.toNat + x) + 2)

/-! ## The families of the opcode table -/

/-- The commands by family, `RGB2PAL` with the kernel it diffuses with, if any. -/
inductive Family where
  | plclr
  | fillp (plane : Nat) (set : Bool)
  | deint
  | solid (b : Nat)
  | expand (b : Nat)
  | badWidth
  | ham6
  | ham8
  | rgb2pal (kernel : Option KernelId)
  | nearest
deriving DecidableEq, Repr

/-- The family of each row (`30_encoding.md` R92, R95, R96, R99). -/
def family : Instr → Family
  | .plclr => .plclr
  | .fillp p b => .fillp p b
  | .deint => .deint
  | .solidB => .solid 1
  | .solidH => .solid 2
  | .solidW => .solid 4
  | .solidSz3 => .badWidth
  | .expandB => .expand 1
  | .expandH => .expand 2
  | .expandW => .expand 4
  | .expandSz3 => .badWidth
  | .ham6 => .ham6
  | .ham8 => .ham8
  | .rgb2palNone => .rgb2pal none
  | .rgb2palFs => .rgb2pal (some .floydSteinberg)
  | .rgb2palJjn => .rgb2pal (some .jarvisJudiceNinke)
  | .rgb2palStucki => .rgb2pal (some .stucki)
  | .rgb2palBurkes => .rgb2pal (some .burkes)
  | .rgb2palAtkinson => .rgb2pal (some .atkinson)
  | .rgb2palSierra3 => .rgb2pal (some .sierra3)
  | .rgb2palSierra2 => .rgb2pal (some .sierra2)
  | .rgb2palSierralite => .rgb2pal (some .sierraLite)
  | .rgb2palK9 => .rgb2pal none
  | .rgb2palK10 => .rgb2pal none
  | .rgb2palK11 => .rgb2pal none
  | .rgb2palK12 => .rgb2pal none
  | .rgb2palK13 => .rgb2pal none
  | .rgb2palK14 => .rgb2pal none
  | .rgb2palK15 => .rgb2pal none
  | .nearest => .nearest

/-- The operand registers a command uses (`10_state.md` R24, by the commands' own rules). -/
def usedRegs : Family → List OpReg
  | .plclr => [.plb, .w, .h, .npl]
  | .fillp _ _ => [.plb, .w, .h, .npl]
  | .deint => [.plb, .chb, .w, .h, .npl, .xtra]
  | .solid _ => [.chb, .w, .h, .color]
  | .expand _ => [.chb, .w, .h, .sx, .sy]
  | .badWidth => []
  | .ham6 => [.chb, .dsb, .palb, .paln, .w, .h]
  | .ham8 => [.chb, .dsb, .palb, .paln, .w, .h]
  | .rgb2pal _ => [.chb, .dsb, .palb, .paln, .w, .h]
  | .nearest => [.palb, .paln, .palf, .color]

/-- The bytes of MEM a command may read (`20_memory.md` R69), with what the commands' rules leave out: planes at and above NPL
(`40_planar.md` R127), the bytes of `CX(b)` outside EXPAND's source pixels (`41_chunky_fill_expand.md` R145), HAM6 palette
entries from 16 on and HAM8's from 64 on (`42_ham.md` R163, R164), the alpha bytes of RGB2PAL's source (`20_memory.md` R65), and
the entries below PALF of NEAREST (`43_nearest_quantize.md` R184). -/
def reads (f : Family) (s : State) (a : Nat) : Prop :=
  match f with
  | .plclr => False
  | .fillp _ _ => False
  | .deint => Within a (s.x.plb.toNat, planeBytes s * s.x.npl.toNat)
  | .solid _ => False
  | .expand b => ∃ x y j, x < s.x.w.toNat / s.x.sx.toNat ∧ y < s.x.h.toNat / s.x.sy.toNat ∧ j < b ∧
      a = s.x.chb.toNat + y * (s.x.w.toNat * b) + x * b + j
  | .badWidth => False
  | .ham6 => Within a (cxRange s 1) ∨ Within a (s.x.palb.toNat, 3 * 16)
  | .ham8 => Within a (cxRange s 1) ∨ Within a (s.x.palb.toNat, 3 * 64)
  | .rgb2pal _ => (Within a (cxRange s 4) ∧ (a - s.x.chb.toNat) % 4 ≠ 3) ∨ Within a (pxRange s)
  | .nearest => Within a (s.x.palb.toNat + 3 * s.x.palf.toNat, 3 * (s.x.paln.toNat - s.x.palf.toNat))

/-- The bytes of MEM a command may write (`20_memory.md` R69). -/
def writes (f : Family) (s : State) (a : Nat) : Prop :=
  match f with
  | .plclr => Within a (plxRange s)
  | .fillp p _ => Within a (s.x.plb.toNat + p * planeBytes s, planeBytes s)
  | .deint => s.x.npl.toNat ≠ 0 ∧ ∃ y, y < s.x.h.toNat ∧
      Within a (s.x.chb.toNat + y * destStride s, s.x.w.toNat * pixelWidth s.x.npl.toNat)
  | .solid b => Within a (cxRange s b)
  | .expand b => Within a (cxRange s b)
  | .badWidth => False
  | .ham6 => Within a (dxRange s 4)
  | .ham8 => Within a (dxRange s 4)
  | .rgb2pal _ => Within a (dxRange s 1)
  | .nearest => False

/-- The extents whose bounds are checked (`20_memory.md` R69, R70). -/
def checkedRanges (f : Family) (s : State) : List Range :=
  match f with
  | .plclr => [plxRange s]
  | .fillp _ _ => [plxRange s]
  | .deint => if s.x.npl.toNat = 0 then [] else [plxRange s, ddxRange s]
  | .solid b => [cxRange s b]
  | .expand b => [cxRange s b]
  | .badWidth => []
  | .ham6 => [cxRange s 1, pxRange s, dxRange s 4]
  | .ham8 => [cxRange s 1, pxRange s, dxRange s 4]
  | .rgb2pal _ => [cxRange s 4, pxRange s, dxRange s 1]
  | .nearest => [pxRange s]

/-- The pairs of a written and a read extent tested for overlap (`20_memory.md` R71). -/
def testedPairs (f : Family) (s : State) : List (Range × Range) :=
  match f with
  | .plclr => []
  | .fillp _ _ => []
  | .deint => if s.x.npl.toNat = 0 then [] else [(ddxRange s, plxRange s)]
  | .solid _ => []
  | .expand _ => []
  | .badWidth => []
  | .ham6 => [(dxRange s 4, cxRange s 1), (dxRange s 4, pxRange s)]
  | .ham8 => [(dxRange s 4, cxRange s 1), (dxRange s 4, pxRange s)]
  | .rgb2pal _ => [(dxRange s 1, cxRange s 4), (dxRange s 1, pxRange s)]
  | .nearest => []

/-- Every checked extent fits and no tested pair overlaps. -/
def Placed (f : Family) (s : State) : Prop :=
  (∀ r ∈ checkedRanges f s, InMem s r) ∧ (∀ p ∈ testedPairs f s, ¬Overlap p.1 p.2)

/-- Pixel number d is the first malformed byte of a HAM6 source (`42_ham.md` R166). -/
def FirstMalformed (s : State) (d : Nat) : Prop :=
  d < s.x.w.toNat * s.x.h.toNat ∧ 64 ≤ (s.readByte (s.x.chb.toNat + d)).toNat ∧
    ∀ j, j < d → (s.readByte (s.x.chb.toNat + j)).toNat < 64

/-- Stage n of the table of `60_exceptions.md` R236 fails for a command of family f; the stage's number is its fault's code. -/
def stageFails (n : Nat) (f : Family) (s : State) : Prop :=
  match n with
  | 2 => f = .badWidth
  | 3 => (f = .plclr ∨ (∃ p b, f = .fillp p b) ∨ f = .deint) ∧ 31 < s.x.npl.toNat
  | 4 => ∃ p b, f = .fillp p b ∧ s.x.npl.toNat ≤ p
  | 5 => f ≠ .nearest ∧ ¬(f = .deint ∧ s.x.npl.toNat = 0) ∧ ¬DimsOk s
  | 6 => (∃ b, f = .expand b) ∧ ¬ScaleOk s
  | 7 => (f = .ham6 ∨ f = .ham8 ∨ (∃ k, f = .rgb2pal k) ∨ f = .nearest) ∧ 256 < s.x.paln.toNat
  | 8 => (f = .ham6 ∧ s.x.paln.toNat < 16) ∨ (f = .ham8 ∧ s.x.paln.toNat < 64)
  | 9 => ((∃ k, f = .rgb2pal k) ∧ s.x.paln.toNat = 0) ∨ (f = .nearest ∧ s.x.paln.toNat ≤ s.x.palf.toNat)
  | 10 => ∃ r ∈ checkedRanges f s, ¬InMem s r
  | 11 => ∃ p ∈ testedPairs f s, Overlap p.1 p.2
  | 12 => f = .ham6 ∧ ∃ d, FirstMalformed s d
  | _ => False

/-! ## Colours -/

/-- The redmean distance, on integers (`43_nearest_quantize.md` R181). -/
def distance (c p : Colour) : Int :=
  (512 + ((c.red.toNat : Int) + p.red.toNat) / 2) * ((c.red.toNat : Int) - p.red.toNat) ^ 2
    + 1024 * ((c.green.toNat : Int) - p.green.toNat) ^ 2
    + (767 - ((c.red.toNat : Int) + p.red.toNat) / 2) * ((c.blue.toNat : Int) - p.blue.toNat) ^ 2

/-- k is the smallest index in [first, num) at which the distance is least (`43_nearest_quantize.md` R182). -/
def IsNearest (s : State) (c : Colour) (first num k : Nat) : Prop :=
  first ≤ k ∧ k < num ∧
    (∀ j, first ≤ j → j < num → distance c (entry s k) ≤ distance c (entry s j)) ∧
    (∀ j, first ≤ j → j < k → distance c (entry s k) < distance c (entry s j))

/-- The running colour after a HAM6 code: mode c[5:4], data v = c[3:0], intensity 17 · v (`42_ham.md` R162, R165). -/
def ham6Next (s : State) (c : Byte) (hcr : Colour) : Colour :=
  if c.toNat / 16 % 4 = 0 then entry s c.toNat
  else if c.toNat / 16 % 4 = 1 then { hcr with blue := BitVec.ofNat 8 (17 * (c.toNat % 16)) }
  else if c.toNat / 16 % 4 = 2 then { hcr with red := BitVec.ofNat 8 (17 * (c.toNat % 16)) }
  else { hcr with green := BitVec.ofNat 8 (17 * (c.toNat % 16)) }

/-- The running colour after a HAM8 code: mode c[7:6], data v = c[5:0], intensity 4 · v + v / 16 (`42_ham.md` R162, R164). -/
def ham8Next (s : State) (c : Byte) (hcr : Colour) : Colour :=
  if c.toNat / 64 = 0 then entry s c.toNat
  else if c.toNat / 64 = 1 then { hcr with blue := BitVec.ofNat 8 (4 * (c.toNat % 64) + c.toNat % 64 / 16) }
  else if c.toNat / 64 = 2 then { hcr with red := BitVec.ofNat 8 (4 * (c.toNat % 64) + c.toNat % 64 / 16) }
  else { hcr with green := BitVec.ofNat 8 (4 * (c.toNat % 64) + c.toNat % 64 / 16) }

/-- What a HAM command leaves, from the colour step of its code: `HCR` starts at `Pal(0)` and is never reset, each pixel emits it
as red, green, blue, 0xFF, and no other byte of MEM changes (`42_ham.md` R161, R163). -/
def HamResult (next : State → Byte → Colour → Colour) (s t : State) : Prop :=
  ∃ hcr : Nat → Colour, hcr 0 = entry s 0 ∧
    (∀ i, i < s.x.w.toNat * s.x.h.toNat →
      hcr (i + 1) = next s (s.readByte (s.x.chb.toNat + i)) (hcr i) ∧
      t.readByte (s.x.dsb.toNat + 4 * i) = (hcr (i + 1)).red ∧
      t.readByte (s.x.dsb.toNat + 4 * i + 1) = (hcr (i + 1)).green ∧
      t.readByte (s.x.dsb.toNat + 4 * i + 2) = (hcr (i + 1)).blue ∧
      t.readByte (s.x.dsb.toNat + 4 * i + 3) = 0xFF) ∧
    (∀ a, ¬Within a (dxRange s 4) → t.readByte a = s.readByte a)

/-- The three colour channels. -/
inductive Channel where
  | red
  | green
  | blue
deriving DecidableEq, Repr

/-- A channel of a colour, as an integer. -/
def chan (ch : Channel) (c : Colour) : Int :=
  match ch with
  | .red => c.red.toNat
  | .green => c.green.toNat
  | .blue => c.blue.toNat

/-- The accumulated error that reaches pixel (x, y), pulled from the residuals of the pixels that target it: for each (dx, dy, w)
of `T(k)`, w times the residual of pixel (x − dx, y − dy) if the image has that pixel (`44_dither.md` R207, R208 read
backwards). -/
def pulledError (shares : List Share) (w : Nat) (residual : Nat → Nat → Int) (x y : Nat) : Int :=
  (shares.map (fun sh =>
    if sh.dy.val ≤ y ∧ 0 ≤ (x : Int) - sh.dx ∧ (x : Int) - sh.dx < w then
      residual ((x : Int) - sh.dx).toNat (y - sh.dy.val) * sh.weight
    else 0)).sum

/-- The error in whole units: divided by 65536, rounded as ERRDIV says (`44_dither.md` R206). -/
def errorUnits (d : ErrDiv) (e : Int) : Int :=
  match d with
  | .trunc => Int.tdiv e 65536
  | .floor => Int.fdiv e 65536

/-! ## EXPAND in place (`41_chunky_fill_expand.md` R147) -/

/-- Write the bytes `v` at address a. -/
def putBytes (s : State) (v : List Byte) (a : Nat) : State := s.setMem (s.mem.storeBytes a v)

/-- For j = n − 1 downto 0: write v at `base + j * b`. -/
def putDown (v : List Byte) (base b : Nat) : Nat → State → State
  | 0, s => s
  | j + 1, s => putDown v base b j (putBytes s v (base + j * b))

/-- For x = n − 1 downto 0: read the pixel at `row + x * b` and write it SX times, right to left. -/
def spreadRow (row b : Nat) : Nat → State → State
  | 0, s => s
  | x + 1, s =>
    spreadRow row b x (putDown (s.readBytes (row + x * b) b) (row + x * s.x.sx.toNat * b) b s.x.sx.toNat s)

/-- For j = n − 1 downto 0: copy the `len` bytes at `row` to `dst + j * len`. -/
def copyRowDown (row dst len : Nat) : Nat → State → State
  | 0, s => s
  | j + 1, s => copyRowDown row dst len j (putBytes s (s.readBytes row len) (dst + j * len))

/-- For y = n − 1 downto 0: spread source row y, unless SX = 1, then copy it SY times. -/
def expandInPlace (b : Nat) : Nat → State → State
  | 0, s => s
  | y + 1, s =>
    let row := s.x.chb.toNat + y * (s.x.w.toNat * b)
    let spread := if s.x.sx.toNat = 1 then s else spreadRow row b (s.x.w.toNat / s.x.sx.toNat) s
    expandInPlace b y
      (copyRowDown row (s.x.chb.toNat + y * s.x.sy.toNat * (s.x.w.toNat * b)) (s.x.w.toNat * b) s.x.sy.toNat spread)

/-! ## Registers -/

/-- What a `RegRead` at an offset returns, row by row of the table of `10_state.md` R22 and R24; none where the host has no such
access (R23). -/
def regTable (s : State) (off : Nat) : Option Word :=
  if off = 0x00 then some 0x50444901#32
  else if off = 0x04 then some (if s.ien then 1 else 0)
  else if off = 0x08 then
    some (BitVec.ofNat 32 (s.status.busy.toNat + 2 * s.status.done.toNat + 4 * s.status.err.toNat + 8 * s.status.ovr.toNat))
  else if off = 0x0C then some (BitVec.ofNat 32 s.errCode.toNat)
  else if off = 0x10 then some s.errInfo
  else if off = 0x14 then some s.cur
  else if off = 0x18 then some s.res
  else if off = 0x1C then some (BitVec.ofNat 32 s.cfg.memSize)
  else if off = 0x40 then some s.x.plb
  else if off = 0x44 then some s.x.chb
  else if off = 0x48 then some s.x.dsb
  else if off = 0x4C then some s.x.palb
  else if off = 0x50 then some s.x.paln
  else if off = 0x54 then some s.x.palf
  else if off = 0x58 then some s.x.w
  else if off = 0x5C then some s.x.h
  else if off = 0x60 then some s.x.npl
  else if off = 0x64 then some s.x.xtra
  else if off = 0x68 then some s.x.sx
  else if off = 0x6C then some s.x.sy
  else if off = 0x70 then some s.x.color
  else if off % 4 = 0 ∧ off ≤ 0xFC then some 0
  else none

/-- A reserved offset: 0x20 to 0x3C and 0x74 to 0xFC, in fours (`10_state.md` R22). -/
def ReservedOffset (off : Nat) : Prop :=
  off % 4 = 0 ∧ ((0x20 ≤ off ∧ off ≤ 0x3C) ∨ (0x74 ≤ off ∧ off ≤ 0xFC))

/-- A read-only register: `ID`, `ERRCODE`, `ERRINFO`, `RES`, `MEMSZ` (`10_state.md` R22). -/
def ReadOnlyOffset (off : Nat) : Prop := off = 0x00 ∨ off = 0x0C ∨ off = 0x10 ∨ off = 0x18 ∨ off = 0x1C

/-- A host move that can end ERR: a write to `STATUS` with bit 2 set, or `Reset` (`60_exceptions.md` R238). -/
def EndsErr (m : HostMove) : Prop := m = .reset ∨ ∃ v : Word, m = .regWrite 0x08 v ∧ v.getLsbD 2 = true

end Sys2Proof.Spec

open Sys2Proof Sys2Proof.Machine Sys2Proof.Spec

/-! ## Encoding -/

/-- Decoding and encoding agree in both directions, over every word and every command (`30_encoding.md` R91 to R93, R99). -/
def Obligations.DecodeAndEncodeAgree : Prop :=
  ∀ (w : Word) (i : Instr), decode w = .ok i ↔ (i.wellFormed = true ∧ encode i = w)

/-- The words that name no command are exactly those of `30_encoding.md` R93. -/
def Obligations.IllegalWordsExactly : Prop :=
  ∀ w : Word, (∃ e, decode w = .error e) ↔
    (w.toNat % 256 = 0 ∨ 0x0A ≤ w.toNat % 256) ∨
    ((w.toNat % 256 = 1 ∨ w.toNat % 256 = 3 ∨ w.toNat % 256 = 6 ∨ w.toNat % 256 = 7 ∨ w.toNat % 256 = 9) ∧
      w.toNat / 2 ^ 8 ≠ 0) ∨
    (w.toNat % 256 = 2 ∧ w.toNat / 2 ^ 14 ≠ 0) ∨
    ((w.toNat % 256 = 4 ∨ w.toNat % 256 = 5) ∧ w.toNat / 2 ^ 10 ≠ 0) ∨
    (w.toNat % 256 = 8 ∧ w.toNat / 2 ^ 12 ≠ 0)

/-- A few words, written out from `30_encoding.md` R91 and R92, decode to their commands. -/
def Obligations.SampleWordsDecode : Prop :=
  decode 0x00000001#32 = .ok .plclr ∧ decode 0x00002102#32 = .ok (.fillp 1 true) ∧
  decode 0x00001F02#32 = .ok (.fillp 31 false) ∧ decode 0x00000003#32 = .ok .deint ∧
  decode 0x00000104#32 = .ok .solidH ∧ decode 0x00000205#32 = .ok .expandW ∧ decode 0x00000006#32 = .ok .ham6 ∧
  decode 0x00000508#32 = .ok .rgb2palAtkinson ∧ decode 0x00000F08#32 = .ok .rgb2palK15 ∧
  decode 0x00000009#32 = .ok .nearest ∧ decode 0x00000000#32 = .error .illegalOpcode ∧
  decode 0x00001008#32 = .error .reservedBitSet

/-! ## The step -/

/-- A step of the engine runs the decoded command; a scripted engine turn is used up first. How turns are scripted, and that an
empty script is the engine's turn, are the model's choices (logs 4 and 5). -/
def Obligations.StepRunsTheDecodedCommand : Prop :=
  ∀ (s : State) (i : Instr), s.status.busy = true → decode s.cur = .ok i →
    i.wellFormed = true ∧ (s.script = [] → step s = exec i s) ∧
    (∀ rest, s.script = .engine :: rest → step s = exec i { s with script := rest })

/-- Without a command in flight all state of PDI is kept (`60_exceptions.md` R244): `Execute` is not enabled then (`10_state.md`
R21), and the spec has no move of the engine at all. That the model has a step there is its own choice: an empty script is a turn
of an idle engine that answers the same state (logs 5 and 14), and a scripted engine turn is used up (log 4). -/
def Obligations.IdleEngineKeepsAllState : Prop :=
  ∀ s : State, s.status.busy = false →
    (s.script = [] → step s = .next s) ∧
    (∀ rest, s.script = .engine :: rest → step s = .next { s with script := rest })

/-- The checks are made in the fixed order of `60_exceptions.md` R236: the first stage that fails gives the fault, with its own
code, and a command that passes every stage completes; one command reports one fault (R237). That an empty script is the engine's
turn is the model's choice (log 5). -/
def Obligations.ChecksInFixedOrder : Prop :=
  ∀ s : State, s.status.busy = true → s.script = [] →
    (∀ e, decode s.cur = .error e → ∃ t, step s = .next t ∧ Faulted s t 1 0) ∧
    (∀ i, decode s.cur = .ok i →
      (∀ n, 2 ≤ n → n ≤ 12 → stageFails n (family i) s → (∀ m, 2 ≤ m → m < n → ¬stageFails m (family i) s) →
        ∃ t d, step s = .next t ∧ Faulted s t n d ∧ (n ≠ 12 → d = 0) ∧ (n = 12 → FirstMalformed s d)) ∧
      ((∀ n, 2 ≤ n → n ≤ 12 → ¬stageFails n (family i) s) → ∃ t, step s = .next t ∧ Completed s t))

/-- Every command ends in exactly one of two ways: completion, or a fault that leaves MEM and `RES` as they were
(`60_exceptions.md` R230 to R234); no command writes an operand register (`10_state.md` R26, the spec's own inference). -/
def Obligations.CommandEndsInOneOfTwoWays : Prop :=
  ∀ (i : Instr) (s : State), ∃ t, exec i s = .next t ∧ t.x = s.x ∧
    ((Completed s t ∧ (i ≠ .nearest → t.res = s.res) ∧ (i = .nearest → t.mem = s.mem)) ∨
     (∃ code info, 1 ≤ code ∧ code ≤ 12 ∧ (code ≠ 12 → info = 0) ∧ Faulted s t code info))

/-! ## Invariants -/

/-- Right after reset the invariant holds, for every legal instance and every reset; that `State.reset` is the reference instance
is the model's choice (log 1). -/
def Obligations.InvariantHoldsAtReset : Prop :=
  State.reset.inv = true ∧ ∀ (p : Params) (n : Nat), p.legal = true → (State.resetOf p n).inv = true

/-- Every step keeps the invariant: a legal instance, MEM in canonical form and inside its bounds (logs 1, 11 and 6: the model's),
the invariants of `STATUS` (`10_state.md` R29, which marks them its own inference), of the fault record (`60_exceptions.md` R233,
R234) and of `RES`. -/
def Obligations.InvariantKeptByEveryStep : Prop :=
  ∀ s t : State, s.inv = true → step s = .next t → t.inv = true

/-! ## What a command touches -/

/-- A command writes no byte of MEM outside the extents that `20_memory.md` R69 lists as written for it. -/
def Obligations.CommandsWriteOnlyTheirExtents : Prop :=
  ∀ (i : Instr) (s t : State), exec i s = .next t → ∀ a, ¬writes (family i) s a → t.readByte a = s.readByte a

/-- A command depends only on the operand registers it uses, on the bytes of its read extents and on the instance: two states
that agree on those end the same way, with the same fault, or with the same bytes written and the same result
(`10_state.md` R24, `20_memory.md` R69, `60_exceptions.md` R230). The read sets are narrower than the extents of R69, by the commands'
own rules: no plane from NPL on (`40_planar.md` R127), EXPAND's source pixels alone (`41_chunky_fill_expand.md` R145), 16 and 64
palette entries (`42_ham.md` R163, R164), no alpha byte (`20_memory.md` R65), no entry below PALF (`43_nearest_quantize.md` R184). -/
def Obligations.CommandsDependOnlyOnTheirOperands : Prop :=
  ∀ (i : Instr) (s s' : State), s.cfg = s'.cfg → (∀ r ∈ usedRegs (family i), s.x.get r = s'.x.get r) →
    (∀ a, reads (family i) s a → s.readByte a = s'.readByte a) →
    ∃ t t', exec i s = .next t ∧ exec i s' = .next t' ∧
      ((∃ code info, Faulted s t code info ∧ Faulted s' t' code info) ∨
       (Completed s t ∧ Completed s' t' ∧ (∀ a, writes (family i) s a → t.readByte a = t'.readByte a) ∧
         (i = .nearest → t.res = t'.res)))

/-! ## Planar commands -/

/-- `PLCLR` (`40_planar.md` R121). -/
def Obligations.PlclrZeroesTheBuffer : Prop :=
  ∀ s : State, s.x.npl.toNat ≤ 31 → DimsOk s → InMem s (plxRange s) →
    ∃ t, exec .plclr s = .next t ∧ Completed s t ∧ t.res = s.res ∧
      (∀ a, Within a (plxRange s) → t.readByte a = 0x00) ∧
      (∀ a, ¬Within a (plxRange s) → t.readByte a = s.readByte a)

/-- `FILLP` (`40_planar.md` R123). -/
def Obligations.FillpFillsOnePlane : Prop :=
  ∀ (s : State) (plane : Nat) (set : Bool), s.x.npl.toNat ≤ 31 → plane < s.x.npl.toNat → DimsOk s → InMem s (plxRange s) →
    ∃ t, exec (.fillp plane set) s = .next t ∧ Completed s t ∧ t.res = s.res ∧
      (∀ a, Within a (s.x.plb.toNat + plane * planeBytes s, planeBytes s) →
        t.readByte a = if set then 0xFF else 0x00) ∧
      (∀ a, ¬Within a (s.x.plb.toNat + plane * planeBytes s, planeBytes s) → t.readByte a = s.readByte a)

/-- `DEINT` with planes: bit i of pixel (x, y) is plane i's sample, the bits above are 0, and the bytes between the rows are left
alone (`40_planar.md` R126, R127, R129). -/
def Obligations.DeintPacksThePlanes : Prop :=
  ∀ s : State, 1 ≤ s.x.npl.toNat → s.x.npl.toNat ≤ 31 → DimsOk s → Placed .deint s →
    ∃ t, exec .deint s = .next t ∧ Completed s t ∧ t.res = s.res ∧
      (∀ x y j bit, x < s.x.w.toNat → y < s.x.h.toNat → j < pixelWidth s.x.npl.toNat → bit < 8 →
        (t.readByte (s.x.chb.toNat + y * destStride s + x * pixelWidth s.x.npl.toNat + j)).getLsbD bit
          = (decide (8 * j + bit < s.x.npl.toNat) && sample s (8 * j + bit) x y)) ∧
      (∀ a, (∀ y, y < s.x.h.toNat →
          ¬Within a (s.x.chb.toNat + y * destStride s, s.x.w.toNat * pixelWidth s.x.npl.toNat)) →
        t.readByte a = s.readByte a)

/-- `DEINT` with no planes completes and touches nothing, whatever the other registers hold (`40_planar.md` R130). -/
def Obligations.DeintOfNoPlanesIsANoOp : Prop :=
  ∀ s : State, s.x.npl.toNat = 0 →
    exec .deint s = .next { s with status := { s.status with busy := false, done := true } }

/-- With at most 8 planes each group of 8 pixels is the transpose of an 8×8 bit matrix, one row per plane, absent planes standing
as zero bytes (`40_planar.md` R128). -/
def Obligations.DeintIsAByteTranspose : Prop :=
  ∀ s : State, 1 ≤ s.x.npl.toNat → s.x.npl.toNat ≤ 8 → DimsOk s → Placed .deint s →
    ∃ t, exec .deint s = .next t ∧ Completed s t ∧
      ∀ g j k y, 8 * g + j < s.x.w.toNat → j < 8 → k < 8 → y < s.x.h.toNat →
        (t.readByte (s.x.chb.toNat + y * destStride s + (8 * g + j))).getLsbD k
          = ((if k < s.x.npl.toNat then
                s.readByte (s.x.plb.toNat + k * planeBytes s + y * pitch s.x.w.toNat + g)
              else 0) : Byte).getLsbD (7 - j)

/-- A single plane filled with ones or zeros deinterleaves to pixels that are all 1 or all 0 (`40_planar.md` R131 (a), the spec's own inference). -/
def Obligations.FilledPlaneDeinterleavesToItsBit : Prop :=
  ∀ (s : State) (set : Bool), s.x.npl.toNat = 1 → DimsOk s → Placed .deint s →
    ∃ t u, exec (.fillp 0 set) s = .next t ∧ exec .deint t = .next u ∧ Completed t u ∧
      ∀ x y, x < s.x.w.toNat → y < s.x.h.toNat →
        u.readByte (s.x.chb.toNat + y * destStride s + x) = if set then 1 else 0

/-! ## SOLID and EXPAND -/

/-- `SOLID.B`, `SOLID.H`, `SOLID.W`: byte j of every pixel is byte j of `x[COLOR]`, and nothing outside `CX(b)` changes
(`41_chunky_fill_expand.md` R142, R143). -/
def Obligations.SolidFillsEveryPixel : Prop :=
  ∀ (s : State) (i : Instr) (b : Nat), (i, b) ∈ [(Instr.solidB, 1), (Instr.solidH, 2), (Instr.solidW, 4)] →
    DimsOk s → InMem s (cxRange s b) →
    ∃ t, exec i s = .next t ∧ Completed s t ∧ t.res = s.res ∧
      (∀ x y j, x < s.x.w.toNat → y < s.x.h.toNat → j < b →
        t.readByte (s.x.chb.toNat + (y * s.x.w.toNat + x) * b + j) = s.x.color.extractLsb' (8 * j) 8) ∧
      (∀ a, ¬Within a (cxRange s b) → t.readByte a = s.readByte a)

/-- The words `SOLID` and `EXPAND` with `SZ` = 3 fault with `BADBPP`, whatever the registers hold (`30_encoding.md` R95). -/
def Obligations.BadPixelWidthFaults : Prop :=
  ∀ (s : State) (i : Instr), i ∈ [Instr.solidSz3, Instr.expandSz3] → ∃ t, exec i s = .next t ∧ Faulted s t 2 0

/-- `EXPAND.B`, `EXPAND.H`, `EXPAND.W`: pixel (X, Y) becomes the old pixel (X / SX, Y / SY), and nothing outside `CX(b)` changes
(`41_chunky_fill_expand.md` R146). -/
def Obligations.ExpandReplicatesPixels : Prop :=
  ∀ (s : State) (i : Instr) (b : Nat), (i, b) ∈ [(Instr.expandB, 1), (Instr.expandH, 2), (Instr.expandW, 4)] →
    DimsOk s → ScaleOk s → InMem s (cxRange s b) →
    ∃ t, exec i s = .next t ∧ Completed s t ∧ t.res = s.res ∧
      (∀ x y j, x < s.x.w.toNat → y < s.x.h.toNat → j < b →
        t.readByte (s.x.chb.toNat + y * (s.x.w.toNat * b) + x * b + j)
          = s.readByte (s.x.chb.toNat + y / s.x.sy.toNat * (s.x.w.toNat * b) + x / s.x.sx.toNat * b + j)) ∧
      (∀ a, ¬Within a (cxRange s b) → t.readByte a = s.readByte a)

/-- The in-place procedure of `41_chunky_fill_expand.md` R147, rows bottom to top, columns right to left, then block copies, ends
with the same MEM (the rule marks this its own inference). -/
def Obligations.ExpandInPlaceOrderAgrees : Prop :=
  ∀ (s : State) (i : Instr) (b : Nat), (i, b) ∈ [(Instr.expandB, 1), (Instr.expandH, 2), (Instr.expandW, 4)] →
    DimsOk s → ScaleOk s → InMem s (cxRange s b) →
    ∃ t, exec i s = .next t ∧
      ∀ a, t.readByte a = (expandInPlace b (s.x.h.toNat / s.x.sy.toNat) s).readByte a

/-- With both factors 1 `EXPAND` leaves every byte of MEM as it was (`41_chunky_fill_expand.md` R146). -/
def Obligations.ExpandByOneIsTheIdentity : Prop :=
  ∀ (s : State) (i : Instr) (b : Nat), (i, b) ∈ [(Instr.expandB, 1), (Instr.expandH, 2), (Instr.expandW, 4)] →
    DimsOk s → s.x.sx.toNat = 1 → s.x.sy.toNat = 1 → InMem s (cxRange s b) →
    ∃ t, exec i s = .next t ∧ Completed s t ∧ t.res = s.res ∧ ∀ a, t.readByte a = s.readByte a

/-! ## HAM -/

/-- `HAM6` (`42_ham.md` R161 to R163, R165): the mode codes 01, 10, 11 are general knowledge by the rule's own mark (log 10). -/
def Obligations.Ham6Reconstructs : Prop :=
  ∀ s : State, DimsOk s → 16 ≤ s.x.paln.toNat → s.x.paln.toNat ≤ 256 → Placed .ham6 s →
    (∀ i, i < s.x.w.toNat * s.x.h.toNat → (s.readByte (s.x.chb.toNat + i)).toNat < 64) →
    ∃ t, exec .ham6 s = .next t ∧ Completed s t ∧ t.res = s.res ∧ HamResult ham6Next s t

/-- `HAM8` (`42_ham.md` R161, R162, R164, R165): no check on the data; the mode codes are general knowledge by the rule's own
mark (log 10). -/
def Obligations.Ham8Reconstructs : Prop :=
  ∀ s : State, DimsOk s → 64 ≤ s.x.paln.toNat → s.x.paln.toNat ≤ 256 → Placed .ham8 s →
    ∃ t, exec .ham8 s = .next t ∧ Completed s t ∧ t.res = s.res ∧ HamResult ham8Next s t

/-! ## The search and RGB2PAL -/

/-- `NEAREST` (`43_nearest_quantize.md` R180, R182, R184). -/
def Obligations.NearestFindsTheLowestBestIndex : Prop :=
  ∀ s : State, s.x.paln.toNat ≤ 256 → s.x.palf.toNat < s.x.paln.toNat → InMem s (pxRange s) →
    ∃ t k, exec .nearest s = .next t ∧ Completed s t ∧ t.mem = s.mem ∧ t.res = BitVec.ofNat 32 k ∧
      IsNearest s
        { red := s.x.color.extractLsb' 0 8, green := s.x.color.extractLsb' 8 8, blue := s.x.color.extractLsb' 16 8 }
        s.x.palf.toNat s.x.paln.toNat k

/-- The model's distance is the formula of `43_nearest_quantize.md` R181, it is 0 exactly on equal colours, and its largest value
is 149 752 575 (the bound is the rule's own inference). -/
def Obligations.RedmeanDistance : Prop :=
  (∀ c p : Colour, (colourDist c p : Int) = distance c p ∧ (distance c p = 0 ↔ c = p) ∧ distance c p ≤ 149752575) ∧
  distance { red := 0, green := 0, blue := 0 } { red := 255, green := 255, blue := 255 } = 149752575

/-- An empty range has no nearest colour: `NEAREST` with PALF ≥ PALN, and `RGB2PAL` of any selector with PALN = 0, fault with
`EMPTYPAL` once the earlier stages pass (`43_nearest_quantize.md` R185, `60_exceptions.md` R236). -/
def Obligations.EmptyPaletteFaults : Prop :=
  (∀ s : State, s.x.paln.toNat ≤ 256 → s.x.paln.toNat ≤ s.x.palf.toNat → ∃ t, exec .nearest s = .next t ∧ Faulted s t 9 0) ∧
  (∀ (s : State) (i : Instr), (∃ k, family i = .rgb2pal k) → DimsOk s → s.x.paln.toNat = 0 →
    ∃ t, exec i s = .next t ∧ Faulted s t 9 0)

/-- `RGB2PAL.NONE` and the selectors 9 to 15: each output byte is the nearest index of its own source pixel
(`43_nearest_quantize.md` R186, R187, R188). -/
def Obligations.DirectMappingOfEachPixel : Prop :=
  ∀ (s : State) (i : Instr),
    i ∈ [Instr.rgb2palNone, Instr.rgb2palK9, Instr.rgb2palK10, Instr.rgb2palK11, Instr.rgb2palK12, Instr.rgb2palK13,
      Instr.rgb2palK14, Instr.rgb2palK15] →
    DimsOk s → 1 ≤ s.x.paln.toNat → s.x.paln.toNat ≤ 256 → Placed (.rgb2pal none) s →
    ∃ t, exec i s = .next t ∧ Completed s t ∧ t.res = s.res ∧
      (∀ x y, x < s.x.w.toNat → y < s.x.h.toNat →
        ∃ k, IsNearest s (sourceAt s x y) 0 s.x.paln.toNat k ∧
          t.readByte (s.x.dsb.toNat + y * s.x.w.toNat + x) = BitVec.ofNat 8 k) ∧
      (∀ a, ¬Within a (dxRange s 1) → t.readByte a = s.readByte a)

/-- The alias words K = 9 to 15 decode and run exactly as `RGB2PAL.NONE` (`43_nearest_quantize.md` R187). -/
def Obligations.AliasSelectorsRunAsNone : Prop :=
  ∀ w ∈ [0x00000908#32, 0x00000A08#32, 0x00000B08#32, 0x00000C08#32, 0x00000D08#32, 0x00000E08#32, 0x00000F08#32],
    ∃ i, decode w = .ok i ∧ ∀ s, exec i s = exec .rgb2palNone s

/-- The error-diffusion engine in pull form, for each of the eight kernels: the corrected colour of a pixel is its source colour
plus the error pulled from the residuals of the pixels that target it, clamped; its index is the nearest one to that colour; its
residual is the corrected colour minus the chosen entry (`44_dither.md` R206 to R209, `43_nearest_quantize.md` R188). -/
def Obligations.DitherIsErrorPulledFromItsSources : Prop :=
  ∀ (s : State) (i : Instr) (k : KernelId),
    (i, k) ∈ [(Instr.rgb2palFs, KernelId.floydSteinberg), (Instr.rgb2palJjn, KernelId.jarvisJudiceNinke),
      (Instr.rgb2palStucki, KernelId.stucki), (Instr.rgb2palBurkes, KernelId.burkes),
      (Instr.rgb2palAtkinson, KernelId.atkinson), (Instr.rgb2palSierra3, KernelId.sierra3),
      (Instr.rgb2palSierra2, KernelId.sierra2), (Instr.rgb2palSierralite, KernelId.sierraLite)] →
    s.cfg.legal = true → DimsOk s → 1 ≤ s.x.paln.toNat → s.x.paln.toNat ≤ 256 → Placed (.rgb2pal (some k)) s →
    ∃ (t : State) (q : Nat → Nat → Colour) (idx : Nat → Nat → Nat),
      exec i s = .next t ∧ Completed s t ∧ t.res = s.res ∧
      (∀ x y, x < s.x.w.toNat → y < s.x.h.toNat →
        (∀ ch, chan ch (q x y) = max 0 (min 255 (chan ch (sourceAt s x y) + errorUnits s.cfg.errDiv
          (pulledError (kernelShares (kernelOf s.cfg.krom k)) s.x.w.toNat
            (fun x y => chan ch (q x y) - chan ch (entry s (idx x y))) x y)))) ∧
        IsNearest s (q x y) 0 s.x.paln.toNat (idx x y) ∧
        t.readByte (s.x.dsb.toNat + y * s.x.w.toNat + x) = BitVec.ofNat 8 (idx x y)) ∧
      (∀ a, ¬Within a (dxRange s 1) → t.readByte a = s.readByte a)

/-- Every cell of the working state E fits 32 bits: its magnitude is at most 255 · 65536, before every pixel of every row
(`10_state.md` R34, which marks the bound its own inference from `44_dither.md` R202 and R207). -/
def Obligations.ErrorCellsStayBounded : Prop :=
  ∀ (s : State) (k : KernelId) (x y : Nat), s.cfg.legal = true → x ≤ s.x.w.toNat →
    let e := (ditherRow (s.ditherContext k) (fun col => s.sourcePixel col y)
      (ditherRows (s.ditherContext k) s.sourcePixel y).2 x).2
    ∀ cell ∈ e.row0 ++ e.row1 ++ e.row2,
      cell.red.natAbs ≤ 16711680 ∧ cell.green.natAbs ≤ 16711680 ∧ cell.blue.natAbs ≤ 16711680

/-- Every output byte of `RGB2PAL`, for every selector, is below the palette size (`43_nearest_quantize.md` R188, the spec's own
inference). -/
def Obligations.IndicesBelowThePaletteSize : Prop :=
  ∀ (s : State) (i : Instr) (k : Option KernelId), family i = .rgb2pal k →
    DimsOk s → 1 ≤ s.x.paln.toNat → s.x.paln.toNat ≤ 256 → Placed (.rgb2pal k) s →
    ∃ t, exec i s = .next t ∧ Completed s t ∧
      ∀ p, p < s.x.w.toNat * s.x.h.toNat → (t.readByte (s.x.dsb.toNat + p)).toNat < s.x.paln.toNat

/-- `KROM_REF` meets `44_dither.md` R201 and R202, and the reference parameters are a legal instance (`00_scope.md` R6). The
weights are general knowledge by the spec's own mark (log 9). -/
def Obligations.ReferenceTableIsWellFormed : Prop := kromOk kromRef = true ∧ referenceParams.legal = true

/-- The document's worked example, `44_dither.md` R219 (its numbers are the spec's own inference, on `KROM_REF`, log 9): E after the
two pixels, and the indices 0 0. -/
def Obligations.WorkedExampleOfTheDocument : Prop :=
  let bw : Nat → Colour := fun i => if i = 0 then { red := 0, green := 0, blue := 0 } else { red := 255, green := 255, blue := 255 }
  let cx : DitherContext :=
    { errDiv := .trunc, shares := kernelShares kromRef.floydSteinberg, pal := bw, choose := fun c => nearest bw c 0 2,
      width := 2 }
  let src : Nat → Colour := fun x => if x = 0 then { red := 10, green := 10, blue := 10 } else { red := 0, green := 0, blue := 0 }
  (ditherRow cx src (ErrWindow.zero 2) 1).2.row0[1]? = some { red := 286720, green := 286720, blue := 286720 } ∧
  (ditherRow cx src (ErrWindow.zero 2) 2).1 = [0, 0] ∧
  (ditherRow cx src (ErrWindow.zero 2) 2).2.row1
    = [{ red := 253952, green := 253952, blue := 253952 },
       { red := 122880, green := 122880, blue := 122880 }]

/-- The planar pitch and the pixel width (`20_memory.md` R78). -/
def Obligations.PitchAndPixelWidth : Prop :=
  (∀ w, ppitch w = (w + 15) / 16 * 2 ∧ ppitch w % 2 = 0 ∧ w ≤ 8 * ppitch w) ∧
  (∀ n, bpp n = if n ≤ 8 then 1 else if n ≤ 16 then 2 else 4)

/-! ## Registers and the host's moves -/

/-- A `RegRead` returns what the table of `10_state.md` R22 and R24 says and changes nothing of PDI (R23). That the value is
appended to `replies` is the model's choice (log 4). -/
def Obligations.RegisterReadsFollowTheTable : Prop :=
  ∀ (s : State) (off : Nat) (v : Word) (rest : List Turn), s.script = .host (.regRead off) :: rest → regTable s off = some v →
    step s = .next { s with script := rest, replies := s.replies ++ [.reg v] }

/-- `10_state.md` R23: reserved offsets read 0; writes to reserved offsets and read-only registers change nothing; the reserved
bits of `CTRL` and `STATUS` read 0 and ignore writes; an access at another offset is no move of the host (refused, log 8); a read
changes nothing but what the environment has learned (log 4). -/
def Obligations.ReservedAndReadOnlyRegisters : Prop :=
  ∀ (s : State) (off : Nat) (v : Word) (rest : List Turn),
    (ReservedOffset off → s.script = .host (.regRead off) :: rest →
      step s = .next { s with script := rest, replies := s.replies ++ [.reg 0] }) ∧
    (ReservedOffset off ∨ ReadOnlyOffset off → s.script = .host (.regWrite off v) :: rest →
      step s = .next { s with script := rest }) ∧
    ((regTable s 0x04).map (fun c => c.toNat / 2) = some 0 ∧ (regTable s 0x08).map (fun c => c.toNat / 16) = some 0) ∧
    (off = 0x04 → v.getLsbD 0 = s.ien → s.script = .host (.regWrite off v) :: rest →
      step s = .next { s with script := rest }) ∧
    (off = 0x08 → v.toNat % 16 / 2 = 0 → s.script = .host (.regWrite off v) :: rest →
      step s = .next { s with script := rest }) ∧
    (off % 4 ≠ 0 ∨ 0xFC < off →
      (s.script = .host (.regRead off) :: rest → step s = .refused .noSuchRegister) ∧
      (s.script = .host (.regWrite off v) :: rest → step s = .refused .noSuchRegister)) ∧
    (s.script = .host (.regRead off) :: rest → ∀ t, step s = .next t →
      t = { s with script := rest, replies := t.replies })

/-- A write to an operand register is stored while BUSY = 0 and dropped with OVR while BUSY = 1; a read returns the stored value
at any time (`10_state.md` R25). The move is the head of `script` and a reply is appended to `replies`: how the model writes R21
down (log 4). -/
def Obligations.OperandRegisterAccess : Prop :=
  ∀ (s : State) (r : OpReg) (v : Word) (rest : List Turn),
    (s.script = .host (.regWrite (0x40 + 4 * r.index) v) :: rest → s.status.busy = false →
      ∃ t, step s = .next t ∧ t = { s with script := rest, x := t.x } ∧ t.x.get r = v ∧
        ∀ r', r' ≠ r → t.x.get r' = s.x.get r') ∧
    (s.script = .host (.regWrite (0x40 + 4 * r.index) v) :: rest → s.status.busy = true →
      step s = .next { s with script := rest, status := { s.status with ovr := true } }) ∧
    (s.script = .host (.regRead (0x40 + 4 * r.index)) :: rest →
      step s = .next { s with script := rest, replies := s.replies ++ [.reg (s.x.get r)] })

/-- `CMD` and `CUR` (`10_state.md` R32): an acceptance when neither BUSY nor ERR, nothing decoded or checked; otherwise dropped
with OVR; a read returns `CUR`, which is 0 after reset. The move is the head of `script` and a reply is appended to `replies`: how
the model writes R21 down (log 4). -/
def Obligations.CmdWriteAcceptsOrDrops : Prop :=
  State.reset.cur = 0 ∧
  ∀ (s : State) (v : Word) (rest : List Turn),
    (s.script = .host (.regWrite 0x14 v) :: rest → s.status.busy = false → s.status.err = false →
      step s = .next { s with script := rest, cur := v, status := { s.status with busy := true, done := false } }) ∧
    (s.script = .host (.regWrite 0x14 v) :: rest → (s.status.busy = true ∨ s.status.err = true) →
      step s = .next { s with script := rest, status := { s.status with ovr := true } }) ∧
    (s.script = .host (.regRead 0x14) :: rest →
      step s = .next { s with script := rest, replies := s.replies ++ [.reg s.cur] })

/-- A write to `STATUS` clears DONE, ERR and OVR where it has a 1 in bits 1, 2 and 3, at any time; clearing ERR zeroes `ERRCODE`
and `ERRINFO`; BUSY and the other bits are ignored (`10_state.md` R29, R31). The move is the head of `script`: how the model writes
R21 down (log 4). -/
def Obligations.StatusWriteOneToClear : Prop :=
  ∀ (s : State) (v : Word) (rest : List Turn), s.script = .host (.regWrite 0x08 v) :: rest →
    ∃ t, step s = .next t ∧
      t = { s with script := rest, status := t.status, errCode := t.errCode, errInfo := t.errInfo } ∧
      t.status.busy = s.status.busy ∧
      (t.status.done = true ↔ s.status.done = true ∧ v.getLsbD 1 = false) ∧
      (t.status.err = true ↔ s.status.err = true ∧ v.getLsbD 2 = false) ∧
      (t.status.ovr = true ↔ s.status.ovr = true ∧ v.getLsbD 3 = false) ∧
      (v.getLsbD 2 = true → t.errCode = 0 ∧ t.errInfo = 0) ∧
      (v.getLsbD 2 = false → t.errCode = s.errCode ∧ t.errInfo = s.errInfo)

/-- `CTRL` (`10_state.md` R30): bit 0 is IEN, written and read at any time, 0 after reset; while it is 0 the interrupt output is
0; bits 31:1 read 0 and ignore writes. The move is the head of `script` and a reply is appended to `replies`: how the model writes
R21 down (log 4). -/
def Obligations.CtrlHoldsTheInterruptEnable : Prop :=
  State.reset.ien = false ∧
  ∀ (s : State) (v : Word) (rest : List Turn),
    (s.script = .host (.regWrite 0x04 v) :: rest → step s = .next { s with script := rest, ien := v.getLsbD 0 }) ∧
    (s.script = .host (.regRead 0x04) :: rest →
      step s = .next { s with script := rest, replies := s.replies ++ [.reg (if s.ien then 1 else 0)] }) ∧
    (s.ien = false → irq s = false) ∧ (s.ien = true → irq s = (s.status.done || s.status.err))

/-- `RES` (`10_state.md` R33): 0 after reset; a step that changes it is a `NEAREST` that completes with the index found, or a
`Reset`. -/
def Obligations.ResIsWrittenByNearestOnly : Prop :=
  State.reset.res = 0 ∧
  ∀ s t : State, step s = .next t → t.res ≠ s.res →
    (s.status.busy = true ∧ decode s.cur = .ok .nearest ∧ t.status.busy = false ∧ t.status.done = true ∧
      ∃ k, t.res = BitVec.ofNat 32 k ∧ IsNearest s
        { red := s.x.color.extractLsb' 0 8, green := s.x.color.extractLsb' 8 8, blue := s.x.color.extractLsb' 16 8 }
        s.x.palf.toNat s.x.paln.toNat k) ∨
    (∃ rest, s.script = .host .reset :: rest ∧ t.res = 0)

/-- The host's accesses to MEM while BUSY = 0: a write changes that byte and no other, a read returns the byte
(`10_state.md` R21, R37). The move is the head of `script` and a reply is appended to `replies`: how the model writes R21 down
(log 4). -/
def Obligations.HostMemoryWhileIdle : Prop :=
  ∀ (s : State) (a : Nat) (b : Byte) (rest : List Turn), s.status.busy = false → a < s.cfg.memSize →
    (s.script = .host (.memWrite a b) :: rest →
      ∃ t, step s = .next t ∧ t = { s with script := rest, mem := t.mem } ∧ t.readByte a = b ∧
        ∀ a', a' ≠ a → t.readByte a' = s.readByte a') ∧
    (s.script = .host (.memRead a) :: rest →
      step s = .next { s with script := rest, replies := s.replies ++ [.mem (s.readByte a)] })

/-- While BUSY = 1 the host has no access to MEM (`70_reset_and_hazards.md` R264); that the run is refused is the model's way to
say so (log 7). -/
def Obligations.NoHostMemoryWhileBusy : Prop :=
  ∀ (s : State) (m : HostMove) (rest : List Turn), s.status.busy = true → s.script = .host m :: rest →
    ((∃ a, m = .memRead a) ∨ ∃ a b, m = .memWrite a b) → step s = .refused .memoryWhileBusy

/-- MEM has the addresses 0 to MEMSIZE − 1 (`10_state.md` R37); that an access beyond them stops the run with a fault is the
model's choice (log 6). -/
def Obligations.NoHostMemoryOutsideMem : Prop :=
  ∀ (s : State) (m : HostMove) (a : Nat) (rest : List Turn), s.status.busy = false → s.cfg.memSize ≤ a →
    s.script = .host m :: rest → (m = .memRead a ∨ ∃ b, m = .memWrite a b) → step s = .fault .noSuchAddress

/-- `Reset` in every state: the table of `10_state.md` R39. What MEM holds afterwards is the model's free value (log 2); that the
script and the replies stay is the model's choice (log 4). -/
def Obligations.ResetInEveryState : Prop :=
  ∀ (s : State) (rest : List Turn), s.script = .host .reset :: rest →
    ∃ t, step s = .next t ∧ (∀ r, t.x.get r = 0) ∧ t.ien = false ∧
      t.status = { busy := false, done := false, err := false, ovr := false } ∧ t.errCode = 0 ∧ t.errInfo = 0 ∧ t.cur = 0 ∧
      t.res = 0 ∧ t.cfg = s.cfg ∧ irq t = false ∧ t.script = rest ∧ t.replies = s.replies ∧
      ∀ a, t.readByte a = Config.unspecifiedByte (s.epoch + 1) a

/-- The interrupt output (`60_exceptions.md` R240): its expression, and that clearing DONE and ERR, accepting a command, clearing
IEN, and `Reset` each bring it to 0. The move is the head of `script`: how the model writes R21 down (log 4). -/
def Obligations.InterruptOutput : Prop :=
  ∀ s : State,
    (irq s = true ↔ s.ien = true ∧ (s.status.done = true ∨ s.status.err = true)) ∧
    ∀ (v : Word) (rest : List Turn) (t : State), step s = .next t →
      (s.script = .host (.regWrite 0x08 v) :: rest → v.getLsbD 1 = true → v.getLsbD 2 = true → irq t = false) ∧
      (s.script = .host (.regWrite 0x14 v) :: rest → s.status.busy = false → s.status.err = false → irq t = false) ∧
      (s.script = .host (.regWrite 0x04 v) :: rest → v.getLsbD 0 = false → irq t = false) ∧
      (s.script = .host .reset :: rest → irq t = false)

/-- ERR is sticky (`60_exceptions.md` R238): only a `STATUS` write with bit 2 set and `Reset` end it, and while it is 1 and no
command is in flight, none is accepted. -/
def Obligations.ErrIsSticky : Prop :=
  ∀ s t : State, s.status.err = true → step s = .next t →
    (∃ m rest, s.script = .host m :: rest ∧ EndsErr m) ∨
    (t.status.err = true ∧ t.cur = s.cur ∧ (s.status.busy = false → t.status.busy = false))

/-- OVR records a dropped host write (`60_exceptions.md` R239): it becomes 1 only by an operand-register write while BUSY or a `CMD`
write while BUSY or ERR, which changes nothing else, neither the command in flight nor the fault registers nor the interrupt
output; it becomes 0 only by a `STATUS` write with bit 3 set or by `Reset`; it does not stop an acceptance. The move is the head of
`script`: how the model writes R21 down (log 4). -/
def Obligations.OvrRecordsADroppedWrite : Prop :=
  ∀ s t : State, step s = .next t →
    (s.status.ovr = false → t.status.ovr = true →
      ∃ off v rest, s.script = .host (.regWrite off v) :: rest ∧
        t = { s with script := rest, status := { s.status with ovr := true } } ∧ irq t = irq s ∧
        (((∃ r : OpReg, off = 0x40 + 4 * r.index) ∧ s.status.busy = true) ∨
          (off = 0x14 ∧ (s.status.busy = true ∨ s.status.err = true)))) ∧
    (s.status.ovr = true → t.status.ovr = false →
      (∃ v rest, s.script = .host (.regWrite 0x08 v) :: rest ∧ v.getLsbD 3 = true) ∨ ∃ rest, s.script = .host .reset :: rest) ∧
    (∀ v rest, s.script = .host (.regWrite 0x14 v) :: rest → s.status.busy = false → s.status.err = false →
      t.cur = v ∧ t.status.busy = true ∧ t.status.ovr = s.status.ovr)

/-- An operand register changes only by the host's write to it while BUSY = 0, or by `Reset` (`10_state.md` R24 to R26, R39). -/
def Obligations.OperandRegistersAreTheHosts : Prop :=
  ∀ (s t : State) (r : OpReg), step s = .next t → t.x.get r ≠ s.x.get r →
    (∃ v rest, s.script = .host (.regWrite (0x40 + 4 * r.index) v) :: rest ∧ s.status.busy = false ∧ t.x.get r = v) ∨
    (∃ rest, s.script = .host .reset :: rest ∧ t.x.get r = 0)

/-- The constants of the instance never change: `ID`, `MEMSZ`, `KROM` and the other parameters (`10_state.md` R20, R35, R36;
`70_reset_and_hazards.md` R261). -/
def Obligations.ConstantsNeverChange : Prop :=
  ∀ s t : State, step s = .next t → t.cfg = s.cfg ∧ regTable t 0x00 = regTable s 0x00 ∧ regTable t 0x1C = regTable s 0x1C

/-- A command in flight ends at the engine's next turn (`10_state.md` R21, R29): BUSY 0, and a command that was accepted with
DONE = 0 and ERR = 0 has exactly one of them set afterwards. That an empty script is the engine's turn is the model's weak fairness
(log 5). -/
def Obligations.CommandInFlightEnds : Prop :=
  ∀ s : State, s.status.busy = true → s.script = [] →
    ∃ t, step s = .next t ∧ t.status.busy = false ∧ t.script = [] ∧
      (s.status.done = false → s.status.err = false → (t.status.done = true ↔ t.status.err = false))

/-- `WAIT` (`30_encoding.md` R102) ends within three steps with BUSY read as 0. That the engine gets a turn after a poll that
read 1 is the model's weak fairness (log 5). -/
def Obligations.WaitEndsIdle : Prop :=
  ∀ (s : State) (rest : List Turn), s.script = .wait :: rest →
    ∃ n t, n ≤ 3 ∧ Sys2Proof.core.run n s = .next t ∧ t.script = rest ∧ t.status.busy = false ∧
      ∃ before v, t.replies = before ++ [.reg v] ∧ v.getLsbD 0 = false

/-! ## PDI assembly -/

/-- The pseudo-instruction `PLANAR2CHUNKY` of `30_encoding.md` R104, run line by line from an idle PDI: it ends with DONE, and each
pixel of the scaled bitmap holds the plane samples of the pixel it is a copy of (`40_planar.md` R126, `41_chunky_fill_expand.md`
R146). The script as data, the engine's turns inside `WAIT`, and the assembly lines as data instead of text are the model's choice
(logs 4, 5 and 17). npl = 0 is left out: `DEINT` writes nothing there, and the host's own lines make the region zero (R104). -/
def Obligations.PlanarToChunkyScalesTheImage : Prop :=
  ∀ (s : State) (plb chb w h npl sx sy : Nat),
    let b := pixelWidth npl
    let planes : Range := (plb, pitch w * h * max npl 8)
    let pixels : Range := (chb, w * sx * (h * sy) * b)
    s.cfg.legal = true → s.status.busy = false → s.status.err = false →
    s.script = scriptTurns (planar2chunky plb chb w h npl sx sy) →
    1 ≤ npl → npl ≤ 31 → 1 ≤ w → 1 ≤ h → 1 ≤ sx → 1 ≤ sy → w * sx ≤ s.cfg.maxDim → h * sy ≤ s.cfg.maxDim →
    InMem s planes → InMem s pixels → ¬Overlap pixels planes →
    ∃ n t, Sys2Proof.core.run n s = .next t ∧ t.script = [] ∧
      t.status = { s.status with busy := false, done := true, err := false } ∧
      (∀ x y j bit, x < w * sx → y < h * sy → j < b → bit < 8 →
        (t.readByte (chb + (y * (w * sx) + x) * b + j)).getLsbD bit
          = (decide (8 * j + bit < npl) &&
              (s.readByte (plb + (8 * j + bit) * (pitch w * h) + y / sy * pitch w + x / sx / 8)).getLsbD (7 - x / sx % 8))) ∧
      (∀ a, ¬Within a pixels → t.readByte a = s.readByte a)
end

