-- ==== Sys2Proof/Laws/State.lean ====
section
/-! SUPPORT. The small lemmas of `State`: one per field per update, each true by rfl, so that no later proof unfolds a record
update. -/

namespace Sys2Proof.Machine

variable (s : State)

/-! ## `State.raise` -/

@[simp] theorem State.raise_x (f : PdiFault) : (s.raise f).x = s.x := rfl
@[simp] theorem State.raise_ien (f : PdiFault) : (s.raise f).ien = s.ien := rfl
@[simp] theorem State.raise_status (f : PdiFault) : (s.raise f).status = s.status.faulted := rfl
@[simp] theorem State.raise_errCode (f : PdiFault) : (s.raise f).errCode = f.code := rfl
@[simp] theorem State.raise_errInfo (f : PdiFault) : (s.raise f).errInfo = f.info := rfl
@[simp] theorem State.raise_cur (f : PdiFault) : (s.raise f).cur = s.cur := rfl
@[simp] theorem State.raise_res (f : PdiFault) : (s.raise f).res = s.res := rfl
@[simp] theorem State.raise_mem (f : PdiFault) : (s.raise f).mem = s.mem := rfl
@[simp] theorem State.raise_cfg (f : PdiFault) : (s.raise f).cfg = s.cfg := rfl
@[simp] theorem State.raise_epoch (f : PdiFault) : (s.raise f).epoch = s.epoch := rfl
@[simp] theorem State.raise_script (f : PdiFault) : (s.raise f).script = s.script := rfl
@[simp] theorem State.raise_replies (f : PdiFault) : (s.raise f).replies = s.replies := rfl

/-! ## `State.complete` -/

@[simp] theorem State.complete_x : s.complete.x = s.x := rfl
@[simp] theorem State.complete_ien : s.complete.ien = s.ien := rfl
@[simp] theorem State.complete_status : s.complete.status = s.status.completed := rfl
@[simp] theorem State.complete_errCode : s.complete.errCode = s.errCode := rfl
@[simp] theorem State.complete_errInfo : s.complete.errInfo = s.errInfo := rfl
@[simp] theorem State.complete_cur : s.complete.cur = s.cur := rfl
@[simp] theorem State.complete_res : s.complete.res = s.res := rfl
@[simp] theorem State.complete_mem : s.complete.mem = s.mem := rfl
@[simp] theorem State.complete_cfg : s.complete.cfg = s.cfg := rfl
@[simp] theorem State.complete_epoch : s.complete.epoch = s.epoch := rfl
@[simp] theorem State.complete_script : s.complete.script = s.script := rfl
@[simp] theorem State.complete_replies : s.complete.replies = s.replies := rfl

/-! ## `State.setMem` -/

@[simp] theorem State.setMem_x (m : Memory) : (s.setMem m).x = s.x := rfl
@[simp] theorem State.setMem_ien (m : Memory) : (s.setMem m).ien = s.ien := rfl
@[simp] theorem State.setMem_status (m : Memory) : (s.setMem m).status = s.status := rfl
@[simp] theorem State.setMem_errCode (m : Memory) : (s.setMem m).errCode = s.errCode := rfl
@[simp] theorem State.setMem_errInfo (m : Memory) : (s.setMem m).errInfo = s.errInfo := rfl
@[simp] theorem State.setMem_cur (m : Memory) : (s.setMem m).cur = s.cur := rfl
@[simp] theorem State.setMem_res (m : Memory) : (s.setMem m).res = s.res := rfl
@[simp] theorem State.setMem_mem (m : Memory) : (s.setMem m).mem = m := rfl
@[simp] theorem State.setMem_cfg (m : Memory) : (s.setMem m).cfg = s.cfg := rfl
@[simp] theorem State.setMem_epoch (m : Memory) : (s.setMem m).epoch = s.epoch := rfl
@[simp] theorem State.setMem_script (m : Memory) : (s.setMem m).script = s.script := rfl
@[simp] theorem State.setMem_replies (m : Memory) : (s.setMem m).replies = s.replies := rfl

/-! ## `State.setRes` -/

@[simp] theorem State.setRes_x (v : Word) : (s.setRes v).x = s.x := rfl
@[simp] theorem State.setRes_ien (v : Word) : (s.setRes v).ien = s.ien := rfl
@[simp] theorem State.setRes_status (v : Word) : (s.setRes v).status = s.status := rfl
@[simp] theorem State.setRes_errCode (v : Word) : (s.setRes v).errCode = s.errCode := rfl
@[simp] theorem State.setRes_errInfo (v : Word) : (s.setRes v).errInfo = s.errInfo := rfl
@[simp] theorem State.setRes_cur (v : Word) : (s.setRes v).cur = s.cur := rfl
@[simp] theorem State.setRes_res (v : Word) : (s.setRes v).res = v := rfl
@[simp] theorem State.setRes_mem (v : Word) : (s.setRes v).mem = s.mem := rfl
@[simp] theorem State.setRes_cfg (v : Word) : (s.setRes v).cfg = s.cfg := rfl
@[simp] theorem State.setRes_epoch (v : Word) : (s.setRes v).epoch = s.epoch := rfl
@[simp] theorem State.setRes_script (v : Word) : (s.setRes v).script = s.script := rfl
@[simp] theorem State.setRes_replies (v : Word) : (s.setRes v).replies = s.replies := rfl

/-! ## `State.writeStatus` -/

@[simp] theorem State.writeStatus_x (v : Word) : (s.writeStatus v).x = s.x := rfl
@[simp] theorem State.writeStatus_ien (v : Word) : (s.writeStatus v).ien = s.ien := rfl
@[simp] theorem State.writeStatus_status (v : Word) : (s.writeStatus v).status = s.status.writeOneToClear v := rfl
@[simp] theorem State.writeStatus_errCode (v : Word) : (s.writeStatus v).errCode = (if v.getLsbD 2 then 0 else s.errCode) := rfl
@[simp] theorem State.writeStatus_errInfo (v : Word) : (s.writeStatus v).errInfo = (if v.getLsbD 2 then 0 else s.errInfo) := rfl
@[simp] theorem State.writeStatus_cur (v : Word) : (s.writeStatus v).cur = s.cur := rfl
@[simp] theorem State.writeStatus_res (v : Word) : (s.writeStatus v).res = s.res := rfl
@[simp] theorem State.writeStatus_mem (v : Word) : (s.writeStatus v).mem = s.mem := rfl
@[simp] theorem State.writeStatus_cfg (v : Word) : (s.writeStatus v).cfg = s.cfg := rfl
@[simp] theorem State.writeStatus_epoch (v : Word) : (s.writeStatus v).epoch = s.epoch := rfl
@[simp] theorem State.writeStatus_script (v : Word) : (s.writeStatus v).script = s.script := rfl
@[simp] theorem State.writeStatus_replies (v : Word) : (s.writeStatus v).replies = s.replies := rfl

/-! ## `State.dropWrite` -/

@[simp] theorem State.dropWrite_x : s.dropWrite.x = s.x := rfl
@[simp] theorem State.dropWrite_ien : s.dropWrite.ien = s.ien := rfl
@[simp] theorem State.dropWrite_status : s.dropWrite.status = s.status.overrun := rfl
@[simp] theorem State.dropWrite_errCode : s.dropWrite.errCode = s.errCode := rfl
@[simp] theorem State.dropWrite_errInfo : s.dropWrite.errInfo = s.errInfo := rfl
@[simp] theorem State.dropWrite_cur : s.dropWrite.cur = s.cur := rfl
@[simp] theorem State.dropWrite_res : s.dropWrite.res = s.res := rfl
@[simp] theorem State.dropWrite_mem : s.dropWrite.mem = s.mem := rfl
@[simp] theorem State.dropWrite_cfg : s.dropWrite.cfg = s.cfg := rfl
@[simp] theorem State.dropWrite_epoch : s.dropWrite.epoch = s.epoch := rfl
@[simp] theorem State.dropWrite_script : s.dropWrite.script = s.script := rfl
@[simp] theorem State.dropWrite_replies : s.dropWrite.replies = s.replies := rfl

/-! ## `State.accept` -/

@[simp] theorem State.accept_x (v : Word) : (s.accept v).x = s.x := rfl
@[simp] theorem State.accept_ien (v : Word) : (s.accept v).ien = s.ien := rfl
@[simp] theorem State.accept_status (v : Word) : (s.accept v).status = s.status.accepted := rfl
@[simp] theorem State.accept_errCode (v : Word) : (s.accept v).errCode = s.errCode := rfl
@[simp] theorem State.accept_errInfo (v : Word) : (s.accept v).errInfo = s.errInfo := rfl
@[simp] theorem State.accept_cur (v : Word) : (s.accept v).cur = v := rfl
@[simp] theorem State.accept_res (v : Word) : (s.accept v).res = s.res := rfl
@[simp] theorem State.accept_mem (v : Word) : (s.accept v).mem = s.mem := rfl
@[simp] theorem State.accept_cfg (v : Word) : (s.accept v).cfg = s.cfg := rfl
@[simp] theorem State.accept_epoch (v : Word) : (s.accept v).epoch = s.epoch := rfl
@[simp] theorem State.accept_script (v : Word) : (s.accept v).script = s.script := rfl
@[simp] theorem State.accept_replies (v : Word) : (s.accept v).replies = s.replies := rfl

/-! ## `State.reply` -/

@[simp] theorem State.reply_x (r : Reply) : (s.reply r).x = s.x := rfl
@[simp] theorem State.reply_ien (r : Reply) : (s.reply r).ien = s.ien := rfl
@[simp] theorem State.reply_status (r : Reply) : (s.reply r).status = s.status := rfl
@[simp] theorem State.reply_errCode (r : Reply) : (s.reply r).errCode = s.errCode := rfl
@[simp] theorem State.reply_errInfo (r : Reply) : (s.reply r).errInfo = s.errInfo := rfl
@[simp] theorem State.reply_cur (r : Reply) : (s.reply r).cur = s.cur := rfl
@[simp] theorem State.reply_res (r : Reply) : (s.reply r).res = s.res := rfl
@[simp] theorem State.reply_mem (r : Reply) : (s.reply r).mem = s.mem := rfl
@[simp] theorem State.reply_cfg (r : Reply) : (s.reply r).cfg = s.cfg := rfl
@[simp] theorem State.reply_epoch (r : Reply) : (s.reply r).epoch = s.epoch := rfl
@[simp] theorem State.reply_script (r : Reply) : (s.reply r).script = s.script := rfl
@[simp] theorem State.reply_replies (r : Reply) : (s.reply r).replies = s.replies ++ [r] := rfl

/-! ## `State.issue` -/

@[simp] theorem State.issue_x (c : Word) : (s.issue c).x = s.x := rfl
@[simp] theorem State.issue_ien (c : Word) : (s.issue c).ien = s.ien := rfl
@[simp] theorem State.issue_status (c : Word) : (s.issue c).status = s.status.accepted := rfl
@[simp] theorem State.issue_errCode (c : Word) : (s.issue c).errCode = s.errCode := rfl
@[simp] theorem State.issue_errInfo (c : Word) : (s.issue c).errInfo = s.errInfo := rfl
@[simp] theorem State.issue_cur (c : Word) : (s.issue c).cur = c := rfl
@[simp] theorem State.issue_res (c : Word) : (s.issue c).res = s.res := rfl
@[simp] theorem State.issue_mem (c : Word) : (s.issue c).mem = s.mem := rfl
@[simp] theorem State.issue_cfg (c : Word) : (s.issue c).cfg = s.cfg := rfl
@[simp] theorem State.issue_epoch (c : Word) : (s.issue c).epoch = s.epoch := rfl
@[simp] theorem State.issue_script (c : Word) : (s.issue c).script = [] := rfl
@[simp] theorem State.issue_replies (c : Word) : (s.issue c).replies = s.replies := rfl

/-! ## `State.doReset` -/

@[simp] theorem State.doReset_x : s.doReset.x = OpRegs.zero := rfl
@[simp] theorem State.doReset_ien : s.doReset.ien = false := rfl
@[simp] theorem State.doReset_status : s.doReset.status = Status.clear := rfl
@[simp] theorem State.doReset_errCode : s.doReset.errCode = 0 := rfl
@[simp] theorem State.doReset_errInfo : s.doReset.errInfo = 0 := rfl
@[simp] theorem State.doReset_cur : s.doReset.cur = 0 := rfl
@[simp] theorem State.doReset_res : s.doReset.res = 0 := rfl
@[simp] theorem State.doReset_mem : s.doReset.mem = [] := rfl
@[simp] theorem State.doReset_cfg : s.doReset.cfg = s.cfg := rfl
@[simp] theorem State.doReset_epoch : s.doReset.epoch = s.epoch + 1 := rfl
@[simp] theorem State.doReset_script : s.doReset.script = s.script := rfl
@[simp] theorem State.doReset_replies : s.doReset.replies = s.replies := rfl

/-! ## A byte of MEM after an update that leaves MEM alone -/

@[simp] theorem State.raise_readByte (f : PdiFault) (a : Nat) : (s.raise f).readByte a = s.readByte a := rfl
@[simp] theorem State.complete_readByte (a : Nat) : s.complete.readByte a = s.readByte a := rfl
@[simp] theorem State.setRes_readByte (v : Word) (a : Nat) : (s.setRes v).readByte a = s.readByte a := rfl
@[simp] theorem State.writeStatus_readByte (v : Word) (a : Nat) : (s.writeStatus v).readByte a = s.readByte a := rfl
@[simp] theorem State.dropWrite_readByte (a : Nat) : s.dropWrite.readByte a = s.readByte a := rfl
@[simp] theorem State.accept_readByte (v : Word) (a : Nat) : (s.accept v).readByte a = s.readByte a := rfl
@[simp] theorem State.reply_readByte (r : Reply) (a : Nat) : (s.reply r).readByte a = s.readByte a := rfl
@[simp] theorem State.issue_readByte (c : Word) (a : Nat) : (s.issue c).readByte a = s.readByte a := rfl

@[simp] theorem State.doReset_readByte (a : Nat) : s.doReset.readByte a = Config.unspecifiedByte (s.epoch + 1) a := rfl

theorem State.setMem_readByte (m : Memory) (a : Nat) :
    (s.setMem m).readByte a = (m.lookup a).getD (Config.unspecifiedByte s.epoch a) := rfl

/-! ## The flags after an update of `STATUS` -/

variable (f : Status)

@[simp] theorem Status.completed_busy : f.completed.busy = false := rfl
@[simp] theorem Status.completed_done : f.completed.done = true := rfl
@[simp] theorem Status.completed_err : f.completed.err = f.err := rfl
@[simp] theorem Status.completed_ovr : f.completed.ovr = f.ovr := rfl
@[simp] theorem Status.faulted_busy : f.faulted.busy = false := rfl
@[simp] theorem Status.faulted_done : f.faulted.done = f.done := rfl
@[simp] theorem Status.faulted_err : f.faulted.err = true := rfl
@[simp] theorem Status.faulted_ovr : f.faulted.ovr = f.ovr := rfl
@[simp] theorem Status.accepted_busy : f.accepted.busy = true := rfl
@[simp] theorem Status.accepted_done : f.accepted.done = false := rfl
@[simp] theorem Status.accepted_err : f.accepted.err = f.err := rfl
@[simp] theorem Status.accepted_ovr : f.accepted.ovr = f.ovr := rfl
@[simp] theorem Status.overrun_busy : f.overrun.busy = f.busy := rfl
@[simp] theorem Status.overrun_done : f.overrun.done = f.done := rfl
@[simp] theorem Status.overrun_err : f.overrun.err = f.err := rfl
@[simp] theorem Status.overrun_ovr : f.overrun.ovr = true := rfl
@[simp] theorem Status.writeOneToClear_busy (v : Word) : (f.writeOneToClear v).busy = f.busy := rfl
@[simp] theorem Status.writeOneToClear_done (v : Word) : (f.writeOneToClear v).done = (f.done && !v.getLsbD 1) := rfl
@[simp] theorem Status.writeOneToClear_err (v : Word) : (f.writeOneToClear v).err = (f.err && !v.getLsbD 2) := rfl
@[simp] theorem Status.writeOneToClear_ovr (v : Word) : (f.writeOneToClear v).ovr = (f.ovr && !v.getLsbD 3) := rfl
@[simp] theorem Status.clear_busy : Status.clear.busy = false := rfl
@[simp] theorem Status.clear_done : Status.clear.done = false := rfl
@[simp] theorem Status.clear_err : Status.clear.err = false := rfl
@[simp] theorem Status.clear_ovr : Status.clear.ovr = false := rfl

/-! ## Operand registers -/

@[simp] theorem OpRegs.get_zero (r : OpReg) : OpRegs.zero.get r = 0 := by cases r <;> rfl

@[simp] theorem OpRegs.get_set_same (x : OpRegs) (r : OpReg) (v : Word) : (x.set r v).get r = v := by cases r <;> rfl

theorem OpRegs.get_set_other (x : OpRegs) {r r' : OpReg} (v : Word) (h : r' ≠ r) : (x.set r v).get r' = x.get r' := by
  cases r <;> cases r' <;> first | rfl | exact absurd rfl h

end Sys2Proof.Machine
end

