-- ==== Sys2Proof/Laws/Memory.lean ====
section
/-! SUPPORT. The laws of MEM: read after write for every memory operation, and that every memory operation keeps the canonical
form and the bounds. -/

namespace Sys2Proof.Machine

/-! ## One byte -/

@[simp] theorem Memory.lookup_store_same (m : Memory) (a : Nat) (b : Byte) : (m.store a b).lookup a = some b := by
  induction m with
  | nil => simp [Memory.store, Memory.lookup]
  | cons c rest ih =>
    obtain ⟨k, v⟩ := c
    simp only [Memory.store]
    split
    · simp [Memory.lookup]
    · split
      · simp [Memory.lookup]
      · simp_all [Memory.lookup]

theorem Memory.lookup_store_other (m : Memory) {a a' : Nat} (b : Byte) (h : a' ≠ a) :
    (m.store a b).lookup a' = m.lookup a' := by
  induction m with
  | nil => simp [Memory.store, Memory.lookup, h.symm]
  | cons c rest ih =>
    obtain ⟨k, v⟩ := c
    simp only [Memory.store]
    split
    · simp [Memory.lookup, h.symm]
    · split
      · subst_vars
        simp [Memory.lookup, h.symm]
      · simp [Memory.lookup, ih]

theorem Memory.lookup_store (m : Memory) (a a' : Nat) (b : Byte) :
    (m.store a b).lookup a' = if a' = a then some b else m.lookup a' := by
  split
  · subst_vars
    simp
  · exact Memory.lookup_store_other m b ‹_›

/-! ## Consecutive bytes -/

theorem Memory.lookup_storeBytes (bs : List Byte) : ∀ (m : Memory) (a a' : Nat),
    (m.storeBytes a bs).lookup a' = if a ≤ a' ∧ a' < a + bs.length then bs[a' - a]? else m.lookup a' := by
  induction bs with
  | nil =>
    intro m a a'
    rw [Memory.storeBytes, List.length_nil, if_neg (by omega)]
  | cons b rest ih =>
    intro m a a'
    rw [Memory.storeBytes, ih, Memory.lookup_store, List.length_cons]
    rcases Nat.lt_trichotomy a' a with h | rfl | h
    · rw [if_neg (by omega), if_neg (by omega), if_neg (by omega)]
    · rw [if_neg (by omega), if_pos rfl, if_pos (by omega), Nat.sub_self]
      rfl
    · obtain ⟨k, rfl⟩ : ∃ k, a' = a + 1 + k := ⟨a' - (a + 1), by omega⟩
      have e : a + 1 + k - a = k + 1 := by omega
      have e' : a + 1 + k - (a + 1) = k := by omega
      rw [e, e', if_neg (by omega : ¬(a + 1 + k = a)), List.getElem?_cons_succ]
      by_cases hk : k < rest.length
      · rw [if_pos (by omega), if_pos (by omega)]
      · rw [if_neg (by omega), if_neg (by omega)]

theorem Memory.lookup_storeBytes_outside (m : Memory) (bs : List Byte) {a a' : Nat}
    (h : a' < a ∨ a + bs.length ≤ a') : (m.storeBytes a bs).lookup a' = m.lookup a' := by
  rw [Memory.lookup_storeBytes, if_neg (by omega)]

theorem Memory.lookup_storeBytes_inside (m : Memory) (bs : List Byte) (a : Nat) {i : Nat} (h : i < bs.length) :
    (m.storeBytes a bs).lookup (a + i) = some bs[i] := by
  rw [Memory.lookup_storeBytes, if_pos (by omega)]
  simp [h]

@[simp] theorem leBytes_length (n v : Nat) : (leBytes n v).length = n := by
  induction n generalizing v with
  | zero => rfl
  | succ n ih => simp [leBytes, ih]

theorem leBytes_getElem {n i : Nat} (v : Nat) (h : i < (leBytes n v).length) :
    (leBytes n v)[i] = BitVec.ofNat 8 (v / 256 ^ i) := by
  induction n generalizing v i with
  | zero => simp at h
  | succ n ih =>
    cases i with
    | zero => simp [leBytes]
    | succ i => simp [leBytes, ih, Nat.div_div_eq_div_mul, Nat.pow_succ, Nat.mul_comm]

@[simp] theorem State.readBytes_length (s : State) (a n : Nat) : (s.readBytes a n).length = n := by
  induction n generalizing a with
  | zero => rfl
  | succ n ih => simp [State.readBytes, ih]

theorem State.readBytes_getElem (s : State) (a : Nat) {n i : Nat} (h : i < (s.readBytes a n).length) :
    (s.readBytes a n)[i] = s.readByte (a + i) := by
  induction n generalizing a i with
  | zero => simp [State.readBytes] at h
  | succ n ih =>
    cases i with
    | zero => simp [State.readBytes]
    | succ i =>
      simp only [State.readBytes, List.getElem_cons_succ]
      rw [ih]
      congr 1
      omega

/-- Byte `i` of the value `MemRead` returns is the byte read at `addr + i`. -/
theorem State.memRead_byte (s : State) (addr : Nat) {n i : Nat} (h : i < n) :
    BitVec.ofNat 8 (s.memRead addr n / 256 ^ i) = s.readByte (addr + i) := by
  induction n generalizing addr i with
  | zero => omega
  | succ n ih =>
    cases i with
    | zero =>
      apply BitVec.eq_of_toNat_eq
      have := (s.readByte addr).isLt
      simp [State.memRead]
      omega
    | succ i =>
      have e : s.memRead addr (n + 1) / 256 ^ (i + 1) = s.memRead (addr + 1) n / 256 ^ i := by
        rw [Nat.pow_succ, Nat.mul_comm (256 ^ i), ← Nat.div_div_eq_div_mul]
        congr 1
        have := (s.readByte addr).isLt
        simp only [State.memRead]
        omega
      rw [e, ih (addr + 1) (by omega)]
      congr 1
      omega

/-! ## Images -/

theorem Memory.lookup_storeRow_other (m : Memory) (row b : Nat) (pix : Nat → Nat) (w a : Nat)
    (h : a < row ∨ row + w * b ≤ a) : (m.storeRow row b pix w).lookup a = m.lookup a := by
  induction w with
  | zero => rfl
  | succ w ih =>
    have e : (w + 1) * b = w * b + b := by rw [Nat.add_mul, Nat.one_mul]
    simp only [Memory.storeRow, Memory.write]
    rw [Memory.lookup_storeBytes_outside _ _ (by simp only [leBytes_length]; omega), ih (by omega)]

theorem Memory.lookup_storeRow_same (m : Memory) (row b : Nat) (pix : Nat → Nat) {w x i : Nat} (hx : x < w) (hi : i < b) :
    (m.storeRow row b pix w).lookup (row + x * b + i) = some (BitVec.ofNat 8 (pix x / 256 ^ i)) := by
  induction w with
  | zero => omega
  | succ w ih =>
    simp only [Memory.storeRow, Memory.write]
    by_cases hxw : x = w
    · subst hxw
      rw [Memory.lookup_storeBytes_inside _ _ _ (by simpa using hi), leBytes_getElem]
    · have hle : (x + 1) * b ≤ w * b := Nat.mul_le_mul_right b (by omega)
      have e : (x + 1) * b = x * b + b := by rw [Nat.add_mul, Nat.one_mul]
      rw [Memory.lookup_storeBytes_outside _ _ (by omega), ih (by omega)]

/-- An address that no row covers is untouched by an image write. -/
theorem Memory.lookup_storeImage_other (m : Memory) (base stride w b : Nat) (pix : Nat → Nat → Nat) (h a : Nat)
    (ha : ∀ y < h, a < base + y * stride ∨ base + y * stride + w * b ≤ a) :
    (m.storeImage base stride w b pix h).lookup a = m.lookup a := by
  induction h with
  | zero => rfl
  | succ h ih =>
    simp only [Memory.storeImage]
    rw [Memory.lookup_storeRow_other _ _ _ _ _ _ (ha h (by omega)), ih (fun y hy => ha y (by omega))]

/-- Byte i of pixel (x, y) after an image write whose rows do not overlap. -/
theorem Memory.lookup_storeImage_same (m : Memory) (base : Nat) {stride w b : Nat} (pix : Nat → Nat → Nat) {h x y i : Nat}
    (hs : w * b ≤ stride) (hx : x < w) (hy : y < h) (hi : i < b) :
    (m.storeImage base stride w b pix h).lookup (base + y * stride + x * b + i)
      = some (BitVec.ofNat 8 (pix x y / 256 ^ i)) := by
  induction h with
  | zero => omega
  | succ h ih =>
    simp only [Memory.storeImage]
    by_cases hyh : y = h
    · subst hyh
      exact Memory.lookup_storeRow_same _ _ _ _ hx hi
    · have hle : (y + 1) * stride ≤ h * stride := Nat.mul_le_mul_right stride (by omega)
      have e : (y + 1) * stride = y * stride + stride := by rw [Nat.add_mul, Nat.one_mul]
      have hxb : (x + 1) * b ≤ w * b := Nat.mul_le_mul_right b (by omega)
      have ex : (x + 1) * b = x * b + b := by rw [Nat.add_mul, Nat.one_mul]
      rw [Memory.lookup_storeRow_other _ _ _ _ _ _ (by omega), ih (by omega)]

/-! ## One byte of MEM after a command has written -/

theorem State.readByte_storeBytes (s : State) (bs : List Byte) (a a' : Nat) :
    (s.setMem (s.mem.storeBytes a bs)).readByte a'
      = if a ≤ a' ∧ a' < a + bs.length then bs.getD (a' - a) 0 else s.readByte a' := by
  rw [State.setMem_readByte, Memory.lookup_storeBytes, State.readByte]
  split
  · have h : a' - a < bs.length := by omega
    simp [h]
  · rfl

theorem State.readByte_storeBytes_same (s : State) (bs : List Byte) (a : Nat) {i : Nat} (h : i < bs.length) :
    (s.setMem (s.mem.storeBytes a bs)).readByte (a + i) = bs[i] := by
  rw [State.setMem_readByte, Memory.lookup_storeBytes_inside _ _ _ h, Option.getD_some]

theorem State.readByte_storeImage_same (s : State) (base : Nat) {stride w b : Nat} (pix : Nat → Nat → Nat) {h x y i : Nat}
    (hs : w * b ≤ stride) (hx : x < w) (hy : y < h) (hi : i < b) :
    (s.setMem (s.mem.storeImage base stride w b pix h)).readByte (base + y * stride + x * b + i)
      = BitVec.ofNat 8 (pix x y / 256 ^ i) := by
  rw [State.setMem_readByte, Memory.lookup_storeImage_same _ _ _ hs hx hy hi, Option.getD_some]

theorem State.readByte_storeImage_other (s : State) (base stride w b : Nat) (pix : Nat → Nat → Nat) (h a : Nat)
    (ha : ∀ y, y < h → a < base + y * stride ∨ base + y * stride + w * b ≤ a) :
    (s.setMem (s.mem.storeImage base stride w b pix h)).readByte a = s.readByte a := by
  rw [State.setMem_readByte, Memory.lookup_storeImage_other _ _ _ _ _ _ _ _ ha, State.readByte]

/-! ## The canonical form -/

/-- The canonical form as a proposition: every later address is higher. -/
theorem Memory.wf_cons (k : Nat) (b : Byte) (rest : Memory) :
    Memory.wf ((k, b) :: rest) = true ↔ (∀ c ∈ rest, k < c.1) ∧ Memory.wf rest = true := by
  simp [Memory.wf]

theorem Memory.mem_store {m : Memory} {a : Nat} {b : Byte} {c : Host.Cell} (h : c ∈ m.store a b) :
    c.1 = a ∨ c ∈ m := by
  induction m with
  | nil => simp [Memory.store] at h; simp [h]
  | cons d rest ih =>
    obtain ⟨k, v⟩ := d
    simp only [Memory.store] at h
    split at h
    · rcases List.mem_cons.1 h with rfl | h
      · simp
      · exact Or.inr h
    · split at h
      · rcases List.mem_cons.1 h with rfl | h
        · simp
        · exact Or.inr (List.mem_cons_of_mem _ h)
      · rcases List.mem_cons.1 h with rfl | h
        · exact Or.inr List.mem_cons_self
        · rcases ih h with h | h
          · exact Or.inl h
          · exact Or.inr (List.mem_cons_of_mem _ h)

theorem Memory.wf_store {m : Memory} (a : Nat) (b : Byte) (h : m.wf = true) : (m.store a b).wf = true := by
  induction m with
  | nil => rfl
  | cons d rest ih =>
    obtain ⟨k, v⟩ := d
    obtain ⟨h1, h2⟩ := (Memory.wf_cons k v rest).1 h
    simp only [Memory.store]
    split
    · rename_i hak
      refine (Memory.wf_cons _ _ _).2 ⟨fun c hc => ?_, h⟩
      rcases List.mem_cons.1 hc with rfl | hc
      · exact hak
      · exact Nat.lt_trans hak (h1 c hc)
    · split
      · subst_vars
        exact (Memory.wf_cons _ _ _).2 ⟨h1, h2⟩
      · refine (Memory.wf_cons _ _ _).2 ⟨fun c hc => ?_, ih h2⟩
        rcases Memory.mem_store hc with h | h
        · omega
        · exact h1 c h

/-- What one store keeps, every memory operation keeps. -/
theorem Memory.storeBytes_keeps {P : Memory → Prop} (lo hi : Nat)
    (hP : ∀ m a b, P m → lo ≤ a → a < hi → P (m.store a b)) (bs : List Byte) :
    ∀ (m : Memory) (a : Nat), P m → lo ≤ a → a + bs.length ≤ hi → P (m.storeBytes a bs) := by
  induction bs with
  | nil => intro m a h _ _; exact h
  | cons b rest ih =>
    intro m a h h1 h2
    simp only [List.length_cons] at h2
    exact ih _ _ (hP m a b h h1 (by omega)) (by omega) (by omega)

theorem Memory.storeRow_keeps {P : Memory → Prop} (lo hi : Nat)
    (hP : ∀ m a b, P m → lo ≤ a → a < hi → P (m.store a b)) (m : Memory) (row b : Nat) (pix : Nat → Nat) (w : Nat)
    (h : P m) (h1 : lo ≤ row) (h2 : row + w * b ≤ hi) : P (m.storeRow row b pix w) := by
  induction w with
  | zero => exact h
  | succ w ih =>
    have e : (w + 1) * b = w * b + b := by rw [Nat.add_mul, Nat.one_mul]
    exact Memory.storeBytes_keeps lo hi hP _ _ _ (ih (by omega)) (by omega) (by simp only [leBytes_length]; omega)

theorem Memory.storeImage_keeps {P : Memory → Prop} (lo hi : Nat)
    (hP : ∀ m a b, P m → lo ≤ a → a < hi → P (m.store a b)) (m : Memory) (base stride w b : Nat)
    (pix : Nat → Nat → Nat) (h : Nat) (hm : P m) (h1 : lo ≤ base) (h2 : base + h * stride ≤ hi) (h3 : w * b ≤ stride) :
    P (m.storeImage base stride w b pix h) := by
  induction h with
  | zero => exact hm
  | succ h ih =>
    have e : (h + 1) * stride = h * stride + stride := by rw [Nat.add_mul, Nat.one_mul]
    exact Memory.storeRow_keeps lo hi hP _ _ _ _ _ (ih (by omega)) (by omega) (by omega)

theorem Memory.wf_storeBytes {m : Memory} (a : Nat) (bs : List Byte) (h : m.wf = true) : (m.storeBytes a bs).wf = true :=
  Memory.storeBytes_keeps (P := fun m => m.wf = true) a (a + bs.length) (fun _ a b h _ _ => Memory.wf_store a b h)
    bs m a h (Nat.le_refl _) (Nat.le_refl _)

theorem Memory.wf_storeImage {m : Memory} (base w b xtra : Nat) (pix : Nat → Nat → Nat) (h : Nat) (hm : m.wf = true) :
    (m.storeImage base (w * b + xtra) w b pix h).wf = true :=
  Memory.storeImage_keeps (P := fun m => m.wf = true) base (base + h * (w * b + xtra))
    (fun _ a b h _ _ => Memory.wf_store a b h) m base _ w b pix h hm (Nat.le_refl _) (Nat.le_refl _) (Nat.le_add_right _ _)

/-- Every listed address stays below a bound when all stores are below it. -/
theorem Memory.store_below {m : Memory} {size a : Nat} (b : Byte) (h : ∀ c ∈ m, c.1 < size) (ha : a < size) :
    ∀ c ∈ m.store a b, c.1 < size := by
  intro c hc
  rcases Memory.mem_store hc with e | hc
  · omega
  · exact h c hc

end Sys2Proof.Machine
end

