-- ==== Sys2Proof/Laws/Dither.lean ====
section
/-! SUPPORT. The error-diffusion engine: the shape of its output and of its working state. -/

namespace Sys2Proof.Machine

/-! ## The output, pixel by pixel -/

@[simp] theorem ditherRow_length (cx : DitherContext) (src : Nat → Colour) (e : ErrWindow) (n : Nat) :
    (ditherRow cx src e n).1.length = n := by
  induction n with
  | zero => rfl
  | succ n ih => simp [ditherRow, ih]

@[simp] theorem ditherRows_length (cx : DitherContext) (src : Nat → Nat → Colour) (n : Nat) :
    (ditherRows cx src n).1.length = n * cx.width := by
  induction n with
  | zero => simp [ditherRows]
  | succ n ih => simp [ditherRows, ih, Nat.add_mul]

@[simp] theorem State.ditherOutput_length (s : State) (k : KernelId) :
    (s.ditherOutput k).length = s.x.h.toNat * s.x.w.toNat := by
  simp [State.ditherOutput, State.ditherContext]

/-- The index of pixel x of a row is chosen with `E` as the pixels before it left it. -/
theorem ditherRow_getElem? (cx : DitherContext) (src : Nat → Colour) (e : ErrWindow) {n x : Nat} (h : x < n) :
    (ditherRow cx src e n).1[x]? = some (ditherPixel cx (ditherRow cx src e x).2 x (src x)).1 := by
  induction n with
  | zero => omega
  | succ n ih =>
    simp only [ditherRow]
    by_cases hx : x = n
    · subst hx
      rw [List.getElem?_append_right (by simp)]
      simp
    · rw [List.getElem?_append_left (by simp; omega), ih (by omega)]

/-- The index of pixel (x, y) is chosen with `E` as the rows above and the pixels before it left it. -/
theorem ditherRows_getElem? (cx : DitherContext) (src : Nat → Nat → Colour) {n x y : Nat} (hy : y < n) (hx : x < cx.width) :
    (ditherRows cx src n).1[y * cx.width + x]?
      = some (ditherPixel cx (ditherRow cx (fun col => src col y) (ditherRows cx src y).2 x).2 x (src x y)).1 := by
  induction n with
  | zero => omega
  | succ n ih =>
    simp only [ditherRows]
    by_cases hyn : y = n
    · subst hyn
      rw [List.getElem?_append_right (by simp), ditherRows_length, Nat.add_sub_cancel_left,
        ditherRow_getElem? _ _ _ hx]
    · have h1 : (y + 1) * cx.width ≤ n * cx.width := Nat.mul_le_mul_right _ (by omega)
      rw [Nat.add_mul, Nat.one_mul] at h1
      rw [List.getElem?_append_left (by rw [ditherRows_length]; omega), ih (by omega)]

/-! ## The working state -/

/-- Every row of `E` has a cell for each of `w` columns. -/
def ErrWindow.hasWidth (e : ErrWindow) (w : Nat) : Prop :=
  e.row0.length = w ∧ e.row1.length = w ∧ e.row2.length = w

theorem ErrWindow.hasWidth_zero (w : Nat) : (ErrWindow.zero w).hasWidth w := by
  simp [ErrWindow.hasWidth, ErrWindow.zero, zeroRow]

theorem ErrWindow.hasWidth_addAt {e : ErrWindow} {w : Nat} (h : e.hasWidth w) (dy : Fin 3) (col : Nat) (d : ErrCell) :
    (e.addAt dy col d).hasWidth w := by
  obtain ⟨h0, h1, h2⟩ := h
  unfold ErrWindow.addAt
  split <;> simp [ErrWindow.hasWidth, *]

theorem ErrWindow.hasWidth_diffuse {w : Nat} (shares : List Share) (col : Nat) (res : ErrCell) :
    ∀ {e : ErrWindow}, e.hasWidth w → (diffuse shares w col res e).hasWidth w := by
  induction shares with
  | nil => intro e h; exact h
  | cons sh rest ih =>
    intro e h
    simp only [diffuse, List.foldl_cons]
    refine ih ?_
    unfold diffuseShare
    split
    · exact ErrWindow.hasWidth_addAt h _ _ _
    · exact h

theorem ErrWindow.hasWidth_rotate {e : ErrWindow} {w : Nat} (h : e.hasWidth w) : (e.rotate w).hasWidth w := by
  obtain ⟨h0, h1, h2⟩ := h
  simp [ErrWindow.hasWidth, ErrWindow.rotate, zeroRow, *]

theorem ErrWindow.hasWidth_ditherRow {cx : DitherContext} {src : Nat → Colour} {e : ErrWindow} (h : e.hasWidth cx.width)
    (n : Nat) : (ditherRow cx src e n).2.hasWidth cx.width := by
  induction n with
  | zero => exact h
  | succ n ih => exact ErrWindow.hasWidth_diffuse _ _ _ ih

theorem ErrWindow.hasWidth_ditherRows (cx : DitherContext) (src : Nat → Nat → Colour) (n : Nat) :
    (ditherRows cx src n).2.hasWidth cx.width := by
  induction n with
  | zero => exact ErrWindow.hasWidth_zero _
  | succ n ih => exact ErrWindow.hasWidth_rotate (ErrWindow.hasWidth_ditherRow ih _)

/-! ## Correcting a channel -/

theorem clamp_bounds (v : Int) : 0 ≤ clamp v 0 255 ∧ clamp v 0 255 ≤ 255 := by
  unfold clamp
  split
  · omega
  · split <;> omega

/-- The corrected channel, as an integer, is the clamped sum. -/
theorem correctChannel_toNat (d : ErrDiv) (src : Byte) (e : Int) :
    ((correctChannel d src e).toNat : Int) = clamp ((src.toNat : Int) + ediv d e) 0 255 := by
  have h := clamp_bounds ((src.toNat : Int) + ediv d e)
  unfold correctChannel
  rw [BitVec.toNat_ofInt]
  omega

end Sys2Proof.Machine
end

