-- ==== Sys2Proof/Laws/Ops.lean ====
section
/-! SUPPORT. What each shared operation can do, said once: the order of checks, running a command, the decoding of offsets. -/

namespace Sys2Proof.Machine

/-! ## Checks -/

@[simp] theorem firstFault_nil : firstFault [] = none := rfl

@[simp] theorem firstFault_cons_some (f : PdiFault) (rest : List (Option PdiFault)) :
    firstFault (some f :: rest) = some f := rfl

@[simp] theorem firstFault_cons_none (rest : List (Option PdiFault)) :
    firstFault (none :: rest) = firstFault rest := rfl

@[simp] theorem failIf_true (f : PdiFault) : failIf true f = some f := rfl

@[simp] theorem failIf_false (f : PdiFault) : failIf false f = none := rfl

theorem failIf_eq_none {c : Bool} {f : PdiFault} : failIf c f = none ↔ c = false := by cases c <;> simp

/-- No fault is reported exactly when every stage passes. -/
theorem firstFault_eq_none {checks : List (Option PdiFault)} : firstFault checks = none ↔ ∀ c ∈ checks, c = none := by
  induction checks with
  | nil => simp
  | cons c rest ih => cases c <;> simp [ih]

/-- The fault reported is one of a stage that fails, all earlier stages passing. -/
theorem firstFault_eq_some {checks : List (Option PdiFault)} {f : PdiFault} :
    firstFault checks = some f ↔ ∃ before after, checks = before ++ some f :: after ∧ ∀ c ∈ before, c = none := by
  induction checks with
  | nil => simp
  | cons c rest ih =>
    cases c with
    | none =>
      rw [firstFault_cons_none, ih]
      constructor
      · rintro ⟨b, a, rfl, h⟩
        exact ⟨none :: b, a, rfl, by simpa using h⟩
      · rintro ⟨b, a, e, h⟩
        cases b with
        | nil => simp at e
        | cons d b =>
          simp only [List.cons_append, List.cons.injEq] at e
          exact ⟨b, a, e.2, fun c hc => h c (List.mem_cons_of_mem _ hc)⟩
    | some g =>
      rw [firstFault_cons_some]
      constructor
      · rintro h
        cases h
        exact ⟨[], rest, rfl, by simp⟩
      · rintro ⟨b, a, e, h⟩
        cases b with
        | nil =>
          simp only [List.nil_append, List.cons.injEq] at e
          exact e.1
        | cons d b =>
          simp only [List.cons_append, List.cons.injEq] at e
          have := h d List.mem_cons_self
          simp_all

/-! ## Commands -/

theorem runCommand_of_fault {checks : List (Option PdiFault)} {effect : State → State} {s : State} {f : PdiFault}
    (h : firstFault checks = some f) : runCommand checks effect s = .next (s.raise f) := by
  simp [runCommand, h]

theorem runCommand_of_pass {checks : List (Option PdiFault)} {effect : State → State} {s : State}
    (h : firstFault checks = none) : runCommand checks effect s = .next (effect s).complete := by
  simp [runCommand, h]

/-- Everything a command can do: it faults with the first failing stage, or it has its effect and completes. -/
theorem runCommand_cases (checks : List (Option PdiFault)) (effect : State → State) (s : State) :
    (∃ f, firstFault checks = some f ∧ runCommand checks effect s = .next (s.raise f))
      ∨ (firstFault checks = none ∧ runCommand checks effect s = .next (effect s).complete) := by
  cases h : firstFault checks with
  | none => exact Or.inr ⟨rfl, runCommand_of_pass h⟩
  | some f => exact Or.inl ⟨f, rfl, runCommand_of_fault h⟩

theorem PdiFault.code_ne_zero (f : PdiFault) : f.code ≠ 0 := by cases f <;> simp [PdiFault.code]

theorem PdiFault.code_le (f : PdiFault) : f.code.toNat ≤ 12 := by cases f <;> simp [PdiFault.code]

/-- A detail word that is not 0 comes with `BADPIXEL` only. -/
theorem PdiFault.info_or_code (f : PdiFault) : f.info = 0 ∨ f.code = 12 := by
  cases f <;> first | exact Or.inl rfl | exact Or.inr rfl

/-! ## Extents -/

theorem Extent.fits_iff (e : Extent) (n : Nat) : e.fits n = true ↔ e.base + e.len ≤ n := by simp [Extent.fits]

theorem Extent.overlaps_iff (e f : Extent) :
    e.overlaps f = true ↔ 0 < e.len ∧ 0 < f.len ∧ e.base < f.base + f.len ∧ f.base < e.base + e.len := by
  simp [Extent.overlaps, and_assoc]

/-! ## The shared stages as propositions -/

theorem checkPlanes_eq_none (s : State) : checkPlanes s = none ↔ s.x.npl.toNat ≤ 31 := by
  simp [checkPlanes, failIf_eq_none]

theorem checkPlane_eq_none (p : Nat) (s : State) : checkPlane p s = none ↔ p < s.x.npl.toNat := by
  simp [checkPlane, failIf_eq_none]

theorem checkDim_eq_none (s : State) :
    checkDim s = none ↔
      s.x.w.toNat ≠ 0 ∧ s.x.h.toNat ≠ 0 ∧ s.x.w.toNat ≤ s.cfg.maxDim ∧ s.x.h.toNat ≤ s.cfg.maxDim := by
  simp [checkDim, failIf_eq_none, and_assoc]

theorem checkScale_eq_none (s : State) :
    checkScale s = none ↔
      s.x.sx.toNat ≠ 0 ∧ s.x.sy.toNat ≠ 0 ∧ s.x.w.toNat % s.x.sx.toNat = 0 ∧ s.x.h.toNat % s.x.sy.toNat = 0 := by
  simp [checkScale, failIf_eq_none, and_assoc]

theorem checkPal_eq_none (s : State) : checkPal s = none ↔ s.x.paln.toNat ≤ 256 := by
  simp [checkPal, failIf_eq_none]

theorem checkPalMin_eq_none (n : Nat) (s : State) : checkPalMin n s = none ↔ n ≤ s.x.paln.toNat := by
  simp [checkPalMin, failIf_eq_none]

theorem checkFits_eq_none (s : State) (e : Extent) : checkFits s e = none ↔ e.base + e.len ≤ s.cfg.memSize := by
  simp [checkFits, failIf_eq_none, Extent.fits]

theorem checkApart_eq_none (e f : Extent) :
    checkApart e f = none ↔ e.len = 0 ∨ f.len = 0 ∨ f.base + f.len ≤ e.base ∨ e.base + e.len ≤ f.base := by
  rw [checkApart, failIf_eq_none, Bool.eq_false_iff, Ne, Extent.overlaps_iff]
  omega

theorem checkPixels_eq_none (s : State) : checkPixels s = none ↔ ∀ c ∈ s.hamSource, c >>> 6 = 0 := by
  simp [checkPixels, List.findIdx?_eq_none_iff]

/-! ## Register offsets -/

theorem regAt_eq_none (off : Nat) : regAt off = none ↔ ¬(off % 4 = 0 ∧ off ≤ 0xFC) := by
  unfold regAt
  split <;> simp_all

theorem regAt_operand (r : OpReg) : regAt r.offset = some (.operand r) := by cases r <;> rfl

theorem opRegAt_eq_some {n : Nat} {r : OpReg} : opRegAt n = some r ↔ n = r.index := by
  constructor
  · intro h
    unfold opRegAt at h
    split at h <;> first | (cases h; rfl) | cases h
  · rintro rfl
    cases r <;> rfl

end Sys2Proof.Machine
end

