-- ==== Sys2Proof/Laws/Exec.lean ====
section
/-! SUPPORT. What a command can do: every meaning is one run of checks and one effect, and an effect changes MEM or `RES` only. -/

namespace Sys2Proof.Machine

/-- An effect that changes nothing but MEM and `RES`. -/
def WritesMemOrRes (effect : State → State) : Prop := ∀ s, ∃ m v, effect s = (s.setMem m).setRes v

theorem writesMemOrRes_setMem (f : State → Memory) : WritesMemOrRes (fun s => s.setMem (f s)) :=
  fun s => ⟨f s, s.res, rfl⟩

theorem writesMemOrRes_setRes (f : State → Word) : WritesMemOrRes (fun s => s.setRes (f s)) :=
  fun s => ⟨s.mem, f s, rfl⟩

theorem writesMemOrRes_id : WritesMemOrRes id := fun s => ⟨s.mem, s.res, rfl⟩

/-- Every meaning is one run of checks with an effect on MEM or `RES`. -/
theorem exec_is_command (i : Instr) :
    ∃ (checks : State → List (Option PdiFault)) (effect : State → State),
      WritesMemOrRes effect ∧ ∀ s, exec i s = runCommand (checks s) effect s := by
  cases i with
  | plclr => exact ⟨_, _, writesMemOrRes_setMem _, fun _ => rfl⟩
  | fillp p b => exact ⟨_, _, writesMemOrRes_setMem _, fun _ => rfl⟩
  | deint =>
    refine ⟨_, _, fun s => ?_, fun _ => rfl⟩
    by_cases h : s.x.npl.toNat = 0
    · exact ⟨s.mem, s.res, by simp only [h, if_true]; rfl⟩
    · exact ⟨s.mem.storeImage s.x.chb.toNat s.x.deintStride s.x.w.toNat (bpp s.x.npl.toNat) s.deintPixel s.x.h.toNat,
        s.res, by simp only [h, if_false]; rfl⟩
  | solidB => exact ⟨_, _, writesMemOrRes_setMem _, fun _ => rfl⟩
  | solidH => exact ⟨_, _, writesMemOrRes_setMem _, fun _ => rfl⟩
  | solidW => exact ⟨_, _, writesMemOrRes_setMem _, fun _ => rfl⟩
  | solidSz3 => exact ⟨fun _ => [some .badBpp], id, writesMemOrRes_id, fun _ => rfl⟩
  | expandB => exact ⟨_, _, writesMemOrRes_setMem _, fun _ => rfl⟩
  | expandH => exact ⟨_, _, writesMemOrRes_setMem _, fun _ => rfl⟩
  | expandW => exact ⟨_, _, writesMemOrRes_setMem _, fun _ => rfl⟩
  | expandSz3 => exact ⟨fun _ => [some .badBpp], id, writesMemOrRes_id, fun _ => rfl⟩
  | ham6 => exact ⟨fun s => hamChecks 16 s ++ [checkPixels s], _, writesMemOrRes_setMem _, fun _ => rfl⟩
  | ham8 => exact ⟨_, _, writesMemOrRes_setMem _, fun _ => rfl⟩
  | rgb2palNone => exact ⟨_, _, writesMemOrRes_setMem _, fun _ => rfl⟩
  | rgb2palFs => exact ⟨_, _, writesMemOrRes_setMem _, fun _ => rfl⟩
  | rgb2palJjn => exact ⟨_, _, writesMemOrRes_setMem _, fun _ => rfl⟩
  | rgb2palStucki => exact ⟨_, _, writesMemOrRes_setMem _, fun _ => rfl⟩
  | rgb2palBurkes => exact ⟨_, _, writesMemOrRes_setMem _, fun _ => rfl⟩
  | rgb2palAtkinson => exact ⟨_, _, writesMemOrRes_setMem _, fun _ => rfl⟩
  | rgb2palSierra3 => exact ⟨_, _, writesMemOrRes_setMem _, fun _ => rfl⟩
  | rgb2palSierra2 => exact ⟨_, _, writesMemOrRes_setMem _, fun _ => rfl⟩
  | rgb2palSierralite => exact ⟨_, _, writesMemOrRes_setMem _, fun _ => rfl⟩
  | rgb2palK9 => exact ⟨_, _, writesMemOrRes_setMem _, fun _ => rfl⟩
  | rgb2palK10 => exact ⟨_, _, writesMemOrRes_setMem _, fun _ => rfl⟩
  | rgb2palK11 => exact ⟨_, _, writesMemOrRes_setMem _, fun _ => rfl⟩
  | rgb2palK12 => exact ⟨_, _, writesMemOrRes_setMem _, fun _ => rfl⟩
  | rgb2palK13 => exact ⟨_, _, writesMemOrRes_setMem _, fun _ => rfl⟩
  | rgb2palK14 => exact ⟨_, _, writesMemOrRes_setMem _, fun _ => rfl⟩
  | rgb2palK15 => exact ⟨_, _, writesMemOrRes_setMem _, fun _ => rfl⟩
  | nearest => exact ⟨_, _, writesMemOrRes_setRes _, fun _ => rfl⟩

/-- Everything `exec` can do, for every command: it raises a fault, or it completes with a new MEM and `RES`. -/
theorem exec_cases (i : Instr) (s : State) :
    (∃ f, exec i s = .next (s.raise f)) ∨ (∃ m v, exec i s = .next ((s.setMem m).setRes v).complete) := by
  obtain ⟨checks, effect, hw, h⟩ := exec_is_command i
  rw [h]
  rcases runCommand_cases (checks s) effect s with ⟨f, -, e⟩ | ⟨-, e⟩
  · exact Or.inl ⟨f, e⟩
  · obtain ⟨m, v, hm⟩ := hw s
    exact Or.inr ⟨m, v, by rw [e, hm]⟩

/-! ## What a command whose checks pass does -/

theorem exec_plclr_of_pass {s : State} (h : firstFault (plclrChecks s) = none) :
    exec .plclr s
      = .next (s.setMem (s.mem.storeBytes s.x.plx.base (List.replicate s.x.plx.len 0x00))).complete := by
  unfold exec execPlclr
  rw [runCommand_of_pass h]

theorem exec_fillp_of_pass {plane : Nat} {set : Bool} {s : State} (h : firstFault (fillpChecks plane s) = none) :
    exec (.fillp plane set) s
      = .next (s.setMem (s.mem.storeBytes (s.x.plb.toNat + plane * s.x.planeSize)
          (List.replicate s.x.planeSize (if set then 0xFF else 0x00)))).complete := by
  show execFillp plane set s = _
  unfold execFillp
  rw [runCommand_of_pass h]

theorem exec_deint_of_pass {s : State} (hn : s.x.npl.toNat ≠ 0)
    (h : firstFault (checkPlanes s :: deintChecks s) = none) :
    exec .deint s
      = .next (s.setMem (s.mem.storeImage s.x.chb.toNat s.x.deintStride s.x.w.toNat (bpp s.x.npl.toNat)
          s.deintPixel s.x.h.toNat)).complete := by
  unfold exec execDeint
  rw [if_neg hn, runCommand_of_pass h, if_neg hn]

theorem solid_of_pass {b : Nat} {s : State} (h : firstFault (solidChecks b s) = none) :
    solid b s
      = .next (s.setMem (s.mem.storeImage s.x.chb.toNat (s.x.w.toNat * b) s.x.w.toNat b
          (fun _ _ => s.x.color.toNat) s.x.h.toNat)).complete := by
  unfold solid
  rw [runCommand_of_pass h]

theorem expand_of_pass {b : Nat} {s : State} (h : firstFault (expandChecks b s) = none) :
    expand b s
      = .next (s.setMem (s.mem.storeImage s.x.chb.toNat (s.x.w.toNat * b) s.x.w.toNat b
          (fun col row => s.expandPixel b col row) s.x.h.toNat)).complete := by
  unfold expand
  rw [runCommand_of_pass h]

theorem exec_ham6_of_pass {s : State} (h : firstFault (hamChecks 16 s ++ [checkPixels s]) = none) :
    exec .ham6 s = .next (s.setMem (s.mem.storeBytes s.x.dsb.toNat (s.hamOutput ham6Action))).complete := by
  unfold exec execHam6
  rw [runCommand_of_pass h]

theorem exec_ham8_of_pass {s : State} (h : firstFault (hamChecks 64 s) = none) :
    exec .ham8 s = .next (s.setMem (s.mem.storeBytes s.x.dsb.toNat (s.hamOutput ham8Action))).complete := by
  unfold exec execHam8
  rw [runCommand_of_pass h]

theorem rgb2palDirect_of_pass {s : State} (h : firstFault (rgb2palChecks s) = none) :
    rgb2palDirect s
      = .next (s.setMem (s.mem.storeImage s.x.dsb.toNat s.x.w.toNat s.x.w.toNat 1
          (fun col row => s.paletteIndex (s.sourcePixel col row)) s.x.h.toNat)).complete := by
  unfold rgb2palDirect
  rw [runCommand_of_pass h]

theorem rgb2palDither_of_pass {k : KernelId} {s : State} (h : firstFault (rgb2palChecks s) = none) :
    rgb2palDither k s = .next (s.setMem (s.mem.storeBytes s.x.dsb.toNat (s.ditherOutput k))).complete := by
  unfold rgb2palDither
  rw [runCommand_of_pass h]

theorem exec_nearest_of_pass {s : State} (h : firstFault (nearestChecks s) = none) :
    exec .nearest s
      = .next (s.setRes (BitVec.ofNat 32
          (nearest s.pal (queryColour s.x.color) s.x.palf.toNat s.x.paln.toNat))).complete := by
  unfold exec execNearest
  rw [runCommand_of_pass h]

end Sys2Proof.Machine
end

