-- ==== Sys2Proof/Laws/Images.lean ====
section
/-! SUPPORT. The deinterleave accumulator and the HAM run: what they compute. -/

namespace Sys2Proof.Machine

/-! ## The accumulator -/

theorem accumulate_eq (bit : Nat → Bool) (n : Nat) : ∀ acc, accumulate bit n acc = 2 ^ n * acc + accumulate bit n 0 := by
  induction n with
  | zero => intro acc; simp [accumulate]
  | succ n ih =>
    intro acc
    simp only [accumulate]
    rw [ih (2 * acc + _), ih (2 * 0 + _)]
    ring

/-- The accumulator fits its planes (`40_planar.md` R126). -/
theorem accumulate_lt (bit : Nat → Bool) (n : Nat) : accumulate bit n 0 < 2 ^ n := by
  induction n with
  | zero => simp [accumulate]
  | succ n ih =>
    rw [accumulate, accumulate_eq, Nat.pow_succ]
    cases bit n <;> simp <;> omega

/-- Bit i of the accumulator is plane i's sample, and the bits above the planes are 0 (`40_planar.md` R127). -/
theorem accumulate_testBit (bit : Nat → Bool) (n i : Nat) :
    (accumulate bit n 0).testBit i = (decide (i < n) && bit i) := by
  induction n with
  | zero => simp [accumulate]
  | succ n ih =>
    rw [accumulate, accumulate_eq]
    have hlt := accumulate_lt bit n
    rw [Nat.mul_zero, Nat.zero_add, Nat.testBit_two_pow_mul_add _ hlt, ih]
    rcases Nat.lt_trichotomy i n with h | h | h
    · simp [h, Nat.lt_succ_of_lt h]
    · subst h
      cases bit i <;> simp
    · have h1 : ¬ i < n := by omega
      have h2 : ¬ i < n + 1 := by omega
      have h3 : (2 : Nat) ^ 1 ≤ 2 ^ (i - n) := Nat.pow_le_pow_right (by omega) (by omega)
      have h4 := Bool.toNat_lt (bit n)
      simp only [h1, h2, if_false, decide_false, Bool.false_and]
      exact Nat.testBit_lt_two_pow (by omega)

/-! ## The HAM run -/

@[simp] theorem hamRun_length (action : Byte → HamAction) (pal : Nat → Colour) (cs : List Byte) :
    ∀ hcr, (hamRun action pal hcr cs).length = cs.length := by
  induction cs with
  | nil => intro; rfl
  | cons c rest ih => intro hcr; simp [hamRun, ih]

/-- The running colour before pixel number n: `HCR` after the first n codes. -/
def hamColour (action : Byte → HamAction) (pal : Nat → Colour) (hcr : Colour) (code : Nat → Byte) : Nat → Colour
  | 0 => hcr
  | n + 1 => (action (code n)).apply pal (hamColour action pal hcr code n)

theorem hamColour_shift (action : Byte → HamAction) (pal : Nat → Colour) (hcr : Colour) (code : Nat → Byte) (n : Nat) :
    hamColour action pal hcr code (n + 1)
      = hamColour action pal ((action (code 0)).apply pal hcr) (fun i => code (i + 1)) n := by
  induction n with
  | zero => rfl
  | succ n ih => rw [hamColour, ih, hamColour]

/-- The colour emitted for pixel number i is the running colour after that pixel's code. -/
theorem hamRun_getElem (action : Byte → HamAction) (pal : Nat → Colour) (cs : List Byte) :
    ∀ (hcr : Colour) (code : Nat → Byte), (∀ i (h : i < cs.length), code i = cs[i]) →
    ∀ (i : Nat) (h : i < (hamRun action pal hcr cs).length),
      (hamRun action pal hcr cs)[i] = hamColour action pal hcr code (i + 1) := by
  induction cs with
  | nil => intro hcr code _ i h; simp [hamRun] at h
  | cons c rest ih =>
    intro hcr code hc i h
    have h0 : code 0 = c := hc 0 (by simp)
    cases i with
    | zero => simp [hamRun, hamColour, h0]
    | succ i =>
      simp only [hamRun, List.getElem_cons_succ]
      rw [hamColour_shift action pal hcr code (i + 1), h0,
        ih _ (fun j => code (j + 1)) (fun j hj => by rw [hc (j + 1) (by simpa using hj)]; rfl)]

/-- A list of pieces of equal length: element j of piece i. -/
theorem flatMap_getElem? {α β : Type} (f : α → List β) {n : Nat} (hf : ∀ a, (f a).length = n) (l : List α) {i j : Nat}
    (hi : i < l.length) (hj : j < n) : (l.flatMap f)[n * i + j]? = (f l[i])[j]? := by
  induction l generalizing i with
  | nil => simp at hi
  | cons a rest ih =>
    cases i with
    | zero =>
      rw [List.flatMap_cons, List.getElem?_append_left (by rw [hf]; omega)]
      simp
    | succ i =>
      have e : n * (i + 1) + j = n + (n * i + j) := by ring
      rw [List.flatMap_cons, List.getElem?_append_right (by rw [hf]; omega), hf, e, Nat.add_sub_cancel_left,
        ih (by simpa using hi)]
      simp

theorem flatMap_length {α β : Type} (f : α → List β) {n : Nat} (hf : ∀ a, (f a).length = n) (l : List α) :
    (l.flatMap f).length = n * l.length := by
  induction l with
  | nil => simp
  | cons a rest ih =>
    rw [List.flatMap_cons, List.length_append, hf, ih, List.length_cons]
    ring

@[simp] theorem State.hamSource_length (s : State) : s.hamSource.length = s.x.w.toNat * s.x.h.toNat := by
  simp [State.hamSource]

@[simp] theorem State.hamOutput_length (s : State) (action : Byte → HamAction) :
    (s.hamOutput action).length = 4 * (s.x.w.toNat * s.x.h.toNat) := by
  rw [State.hamOutput, flatMap_length _ (n := 4) (fun _ => rfl)]
  simp

/-- Byte j of output pixel number i: byte j of the running colour after that pixel's code. -/
theorem State.hamOutput_getElem? (s : State) (action : Byte → HamAction) {i j : Nat} (hi : i < s.x.w.toNat * s.x.h.toNat)
    (hj : j < 4) :
    (s.hamOutput action)[4 * i + j]?
      = (hamColour action s.pal (s.pal 0) (fun n => s.readByte (s.x.chb.toNat + n)) (i + 1)).rgbaBytes[j]? := by
  rw [State.hamOutput, flatMap_getElem? _ (n := 4) (fun _ => rfl) _ (by simpa using hi) hj,
    hamRun_getElem _ _ _ _ (fun n => s.readByte (s.x.chb.toNat + n))]
  intro k hk
  simp only [State.hamSource]
  rw [State.readBytes_getElem]

end Sys2Proof.Machine
end

