-- ==== Sys2Proof/Laws/Nearest.lean ====
section
/-! SUPPORT. The search: what `nearestScan` and `nearest` return. -/

namespace Sys2Proof.Machine

/-- The scan keeps the earliest best index: its answer is the best so far or one of the scanned entries, it is at most every
distance of the range, and strictly below every distance before it. -/
theorem nearestScan_spec (dist : Nat → Nat) (first : Nat) (n : Nat) : ∀ (i best : Nat),
    first ≤ best → best < i → (∀ j, first ≤ j → j < i → dist best ≤ dist j) →
    (∀ j, first ≤ j → j < best → dist best < dist j) →
    let k := nearestScan dist n i best (dist best)
    first ≤ k ∧ k < i + n ∧ (∀ j, first ≤ j → j < i + n → dist k ≤ dist j) ∧
      (∀ j, first ≤ j → j < k → dist k < dist j) := by
  induction n with
  | zero => intro i best h1 h2 h3 h4; exact ⟨h1, h2, h3, h4⟩
  | succ n ih =>
    intro i best h1 h2 h3 h4
    simp only [nearestScan]
    split
    · rename_i h0
      exact ⟨h1, by omega, fun j _ _ => by omega, h4⟩
    · split
      · rename_i hlt
        have := ih (i + 1) i (by omega) (by omega)
          (fun j hj hji => by
            by_cases h : j = i
            · subst h; exact Nat.le_refl _
            · exact Nat.le_of_lt (Nat.lt_of_lt_of_le hlt (h3 j hj (by omega))))
          (fun j hj hji => Nat.lt_of_lt_of_le hlt (h3 j hj hji))
        rwa [Nat.add_assoc, Nat.add_comm 1 n] at this
      · rename_i hge
        have := ih (i + 1) best h1 (by omega)
          (fun j hj hji => by
            by_cases h : j = i
            · subst h; omega
            · exact h3 j hj (by omega))
          h4
        rwa [Nat.add_assoc, Nat.add_comm 1 n] at this

/-- What `nearest` returns: the smallest index of the range at which the distance is least. -/
theorem nearest_spec (pal : Nat → Colour) (c : Colour) {first num : Nat} (h : first < num) :
    first ≤ nearest pal c first num ∧ nearest pal c first num < num ∧
      (∀ j, first ≤ j → j < num → colourDist c (pal (nearest pal c first num)) ≤ colourDist c (pal j)) ∧
      (∀ j, first ≤ j → j < nearest pal c first num →
        colourDist c (pal (nearest pal c first num)) < colourDist c (pal j)) := by
  have e : first + 1 + (num - (first + 1)) = num := by omega
  have := nearestScan_spec (fun i => colourDist c (pal i)) first (num - (first + 1)) (first + 1) first
    (Nat.le_refl _) (Nat.lt_succ_self _)
    (fun j h1 h2 => by
      have : j = first := by omega
      subst this
      exact Nat.le_refl _)
    (fun j h1 h2 => by omega)
  rw [e] at this
  exact this

theorem nearestScan_congr {d d' : Nat → Nat} (n : Nat) : ∀ (i best bestDist : Nat), (∀ j, i ≤ j → j < i + n → d j = d' j) →
    nearestScan d n i best bestDist = nearestScan d' n i best bestDist := by
  induction n with
  | zero => intros; rfl
  | succ n ih =>
    intro i best bestDist h
    simp only [nearestScan, h i (Nat.le_refl _) (by omega)]
    rw [ih (i + 1) i (d' i) (fun j h1 h2 => h j (by omega) (by omega)),
      ih (i + 1) best bestDist (fun j h1 h2 => h j (by omega) (by omega))]

/-- The search looks at the entries of its range only. -/
theorem nearest_congr {pal pal' : Nat → Colour} (c : Colour) {first num : Nat} (hf : first < num)
    (h : ∀ j, first ≤ j → j < num → pal j = pal' j) : nearest pal c first num = nearest pal' c first num := by
  unfold nearest
  rw [h first (Nat.le_refl _) hf, nearestScan_congr _ _ _ _ (fun j h1 h2 => by rw [h j (by omega) (by omega)])]

end Sys2Proof.Machine
end

