-- ==== Sys2Proof/Laws/PerInstr.lean ====
section
/-! SUPPORT. What is said of every command as syntax, one lemma per constructor: the fields of its word. -/

namespace Sys2Proof.Laws

/-- The four formats of a command word (`30_encoding.md` R91). -/
inductive WordFormat where
  | plain
  | plane
  | size
  | kernel
deriving DecidableEq, Repr

/-- The lowest reserved bit of a format; every bit from it to bit 31 is 0 (`30_encoding.md` R91). -/
def WordFormat.reservedFrom : WordFormat → Nat
  | .plain => 8
  | .plane => 14
  | .size => 10
  | .kernel => 12

/-- The opcode byte and the format of a command (`30_encoding.md` R92). -/
def opcodeAndFormat : Instr → Nat × WordFormat
  | .plclr => (1, .plain)
  | .fillp _ _ => (2, .plane)
  | .deint => (3, .plain)
  | .solidB => (4, .size)
  | .solidH => (4, .size)
  | .solidW => (4, .size)
  | .solidSz3 => (4, .size)
  | .expandB => (5, .size)
  | .expandH => (5, .size)
  | .expandW => (5, .size)
  | .expandSz3 => (5, .size)
  | .ham6 => (6, .plain)
  | .ham8 => (7, .plain)
  | .rgb2palNone => (8, .kernel)
  | .rgb2palFs => (8, .kernel)
  | .rgb2palJjn => (8, .kernel)
  | .rgb2palStucki => (8, .kernel)
  | .rgb2palBurkes => (8, .kernel)
  | .rgb2palAtkinson => (8, .kernel)
  | .rgb2palSierra3 => (8, .kernel)
  | .rgb2palSierra2 => (8, .kernel)
  | .rgb2palSierralite => (8, .kernel)
  | .rgb2palK9 => (8, .kernel)
  | .rgb2palK10 => (8, .kernel)
  | .rgb2palK11 => (8, .kernel)
  | .rgb2palK12 => (8, .kernel)
  | .rgb2palK13 => (8, .kernel)
  | .rgb2palK14 => (8, .kernel)
  | .rgb2palK15 => (8, .kernel)
  | .nearest => (9, .plain)

/-- The word of a well-formed command has its opcode in bits 7:0 and 0 in every reserved bit (`30_encoding.md` R91, R92). -/
def EncodedFields.Statement (i : Instr) : Prop :=
  i.wellFormed = true →
    encodeNat i % 256 = (opcodeAndFormat i).1 ∧ encodeNat i < 2 ^ (opcodeAndFormat i).2.reservedFrom

theorem EncodedFields.plclr : EncodedFields.Statement .plclr := fun _ => by decide

theorem EncodedFields.fillp (plane : Nat) (set : Bool) : EncodedFields.Statement (.fillp plane set) := by
  intro h
  have h : plane < 32 := by simpa [Instr.wellFormed] using h
  cases set <;> simp [encodeNat, opcodeAndFormat, WordFormat.reservedFrom] <;> omega

theorem EncodedFields.deint : EncodedFields.Statement .deint := fun _ => by decide

theorem EncodedFields.solidB : EncodedFields.Statement .solidB := fun _ => by decide

theorem EncodedFields.solidH : EncodedFields.Statement .solidH := fun _ => by decide

theorem EncodedFields.solidW : EncodedFields.Statement .solidW := fun _ => by decide

theorem EncodedFields.solidSz3 : EncodedFields.Statement .solidSz3 := fun _ => by decide

theorem EncodedFields.expandB : EncodedFields.Statement .expandB := fun _ => by decide

theorem EncodedFields.expandH : EncodedFields.Statement .expandH := fun _ => by decide

theorem EncodedFields.expandW : EncodedFields.Statement .expandW := fun _ => by decide

theorem EncodedFields.expandSz3 : EncodedFields.Statement .expandSz3 := fun _ => by decide

theorem EncodedFields.ham6 : EncodedFields.Statement .ham6 := fun _ => by decide

theorem EncodedFields.ham8 : EncodedFields.Statement .ham8 := fun _ => by decide

theorem EncodedFields.rgb2palNone : EncodedFields.Statement .rgb2palNone := fun _ => by decide

theorem EncodedFields.rgb2palFs : EncodedFields.Statement .rgb2palFs := fun _ => by decide

theorem EncodedFields.rgb2palJjn : EncodedFields.Statement .rgb2palJjn := fun _ => by decide

theorem EncodedFields.rgb2palStucki : EncodedFields.Statement .rgb2palStucki := fun _ => by decide

theorem EncodedFields.rgb2palBurkes : EncodedFields.Statement .rgb2palBurkes := fun _ => by decide

theorem EncodedFields.rgb2palAtkinson : EncodedFields.Statement .rgb2palAtkinson := fun _ => by decide

theorem EncodedFields.rgb2palSierra3 : EncodedFields.Statement .rgb2palSierra3 := fun _ => by decide

theorem EncodedFields.rgb2palSierra2 : EncodedFields.Statement .rgb2palSierra2 := fun _ => by decide

theorem EncodedFields.rgb2palSierralite : EncodedFields.Statement .rgb2palSierralite := fun _ => by decide

theorem EncodedFields.rgb2palK9 : EncodedFields.Statement .rgb2palK9 := fun _ => by decide

theorem EncodedFields.rgb2palK10 : EncodedFields.Statement .rgb2palK10 := fun _ => by decide

theorem EncodedFields.rgb2palK11 : EncodedFields.Statement .rgb2palK11 := fun _ => by decide

theorem EncodedFields.rgb2palK12 : EncodedFields.Statement .rgb2palK12 := fun _ => by decide

theorem EncodedFields.rgb2palK13 : EncodedFields.Statement .rgb2palK13 := fun _ => by decide

theorem EncodedFields.rgb2palK14 : EncodedFields.Statement .rgb2palK14 := fun _ => by decide

theorem EncodedFields.rgb2palK15 : EncodedFields.Statement .rgb2palK15 := fun _ => by decide

theorem EncodedFields.nearest : EncodedFields.Statement .nearest := fun _ => by decide

end Sys2Proof.Laws
end

