-- ==== Sys2Proof/Laws/Step.lean ====
section
/-! SUPPORT. What one step can do: which turn it takes, what each turn can change. -/

namespace Sys2Proof.Machine

/-! ## Which turn a step takes -/

theorem step_of_nil {s : State} (h : s.script = []) : step s = engineTurn s := by
  simp [step, nextTurn, h]

theorem step_of_engine {s : State} {rest : List Turn} (h : s.script = .engine :: rest) :
    step s = engineTurn { s with script := rest } := by
  simp [step, nextTurn, h]

theorem step_of_host {s : State} {m : HostMove} {rest : List Turn} (h : s.script = .host m :: rest) :
    step s = hostMove m { s with script := rest } := by
  simp [step, nextTurn, h]

theorem step_of_wait {s : State} {rest : List Turn} (h : s.script = .wait :: rest) : step s = pollTurn s rest := by
  simp [step, nextTurn, h]

/-! ## The engine -/

/-- What every command leaves alone, and the flags it leaves: BUSY 0, ERR kept, and DONE or ERR set but not both where neither
was. -/
theorem exec_frame {i : Instr} {s t : State} (h : exec i s = .next t) :
    t.x = s.x ∧ t.ien = s.ien ∧ t.cfg = s.cfg ∧ t.epoch = s.epoch ∧ t.cur = s.cur ∧ t.script = s.script ∧
      t.replies = s.replies ∧ t.status.busy = false ∧ t.status.ovr = s.status.ovr ∧
      (s.status.err = true → t.status.err = true) ∧
      (s.status.done = false → s.status.err = false → (t.status.done = true ↔ t.status.err = false)) := by
  rcases exec_cases i s with ⟨f, e⟩ | ⟨m, v, e⟩
  all_goals
    rw [e] at h
    simp only [Host.Outcome.next.injEq] at h
    subst h
    simp +contextual

/-- Everything `Execute` can do: it raises a fault, or it completes with a new MEM and `RES`. -/
theorem execute_cases (s : State) :
    (∃ f, execute s = .next (s.raise f)) ∨
      (∃ i m v, decode s.cur = .ok i ∧ exec i s = execute s ∧ execute s = .next ((s.setMem m).setRes v).complete) := by
  cases hd : decode s.cur with
  | error e => exact Or.inl ⟨.illCmd, by simp [execute, hd]⟩
  | ok i =>
    have e : execute s = exec i s := by simp [execute, hd]
    rcases exec_cases i s with ⟨f, h⟩ | ⟨m, v, h⟩
    · exact Or.inl ⟨f, by rw [e, h]⟩
    · exact Or.inr ⟨i, m, v, rfl, e.symm, by rw [e, h]⟩

/-- What the engine's turn leaves alone. -/
theorem engineTurn_frame {s t : State} (h : engineTurn s = .next t) :
    t.x = s.x ∧ t.ien = s.ien ∧ t.cfg = s.cfg ∧ t.epoch = s.epoch ∧ t.cur = s.cur ∧ t.script = s.script ∧
      t.replies = s.replies ∧ t.status.busy = false ∧ t.status.ovr = s.status.ovr ∧
      (s.status.err = true → t.status.err = true) := by
  unfold engineTurn at h
  split at h
  · rcases execute_cases s with ⟨f, e⟩ | ⟨i, m, v, -, -, e⟩ <;> rw [e] at h <;>
      simp only [Host.Outcome.next.injEq] at h <;> subst h <;> simp
  · simp only [Host.Outcome.next.injEq] at h
    subst h
    simp_all

/-! ## The host -/

theorem regAt_four {k : Nat} (h : k < 64) : regAt (4 * k) = some (regOfIndex k) := by
  have : 4 * k % 4 = 0 ∧ 4 * k ≤ 252 := by omega
  simp [regAt, this]

/-- The offset of a register that is not reserved. -/
def Reg.home : Reg → Option Nat
  | .id => some 0x00
  | .ctrl => some 0x04
  | .status => some 0x08
  | .errCode => some 0x0C
  | .errInfo => some 0x10
  | .cmd => some 0x14
  | .res => some 0x18
  | .memSz => some 0x1C
  | .operand r => some (0x40 + 4 * r.index)
  | .reserved => none

/-- A register other than a reserved one stands at one offset only. -/
theorem regAt_home {off n : Nat} {r : Reg} (h : regAt off = some r) (hr : r.home = some n) : off = n := by
  unfold regAt at h
  split at h
  · obtain ⟨k, rfl⟩ : ∃ k, off = 4 * k := ⟨off / 4, by omega⟩
    have hk : k < 64 := by omega
    rw [Nat.mul_div_cancel_left k (by omega)] at h
    interval_cases k <;> simp [regOfIndex, opRegAt] at h <;> subst h <;> simp [Reg.home, OpReg.index] at hr <;> omega
  · cases h

/-- A host move that goes through: a read of a register, a write to one, an access to MEM while idle and inside it, or a reset. -/
theorem hostMove_cases {m : HostMove} {s t : State} (h : hostMove m s = .next t) :
    (∃ off r, m = .regRead off ∧ regAt off = some r ∧ t = s.reply (.reg (s.regValue r))) ∨
    (∃ off v r, m = .regWrite off v ∧ regAt off = some r ∧ t = s.writeReg r v) ∨
    (∃ a, m = .memRead a ∧ s.status.busy = false ∧ a < s.cfg.memSize ∧ t = s.reply (.mem (s.readByte a))) ∨
    (∃ a b, m = .memWrite a b ∧ s.status.busy = false ∧ a < s.cfg.memSize ∧ t = s.setMem (s.mem.store a b)) ∨
    (m = .reset ∧ t = s.doReset) := by
  cases m with
  | regRead off =>
    simp only [hostMove, hostRegRead] at h
    split at h
    · cases h
    · simp only [Host.Outcome.next.injEq] at h
      exact Or.inl ⟨off, _, rfl, ‹_›, h.symm⟩
  | regWrite off v =>
    simp only [hostMove, hostRegWrite] at h
    split at h
    · cases h
    · simp only [Host.Outcome.next.injEq] at h
      exact Or.inr (Or.inl ⟨off, v, _, rfl, ‹_›, h.symm⟩)
  | memRead a =>
    simp only [hostMove, hostMemAccess] at h
    split at h
    · cases h
    · split at h
      · cases h
      · simp only [Host.Outcome.next.injEq] at h
        exact Or.inr (Or.inr (Or.inl ⟨a, rfl, by simpa using ‹¬s.status.busy = true›, by omega, h.symm⟩))
  | memWrite a b =>
    simp only [hostMove, hostMemAccess] at h
    split at h
    · cases h
    · split at h
      · cases h
      · simp only [Host.Outcome.next.injEq] at h
        exact Or.inr (Or.inr (Or.inr (Or.inl ⟨a, b, rfl, by simpa using ‹¬s.status.busy = true›, by omega, h.symm⟩)))
  | reset =>
    simp only [hostMove, Host.Outcome.next.injEq] at h
    exact Or.inr (Or.inr (Or.inr (Or.inr ⟨rfl, h.symm⟩)))

end Sys2Proof.Machine
end

