-- ==== Sys2Proof/Tests/Slice0.lean ====
section
/-! SUPPORT. Small tests of the model against `spec/95_test_vectors.md` and the encodings of `30_encoding.md`, the refusals of
`WellFormed`, and for every statement with hypotheses a witness that meets them. -/

namespace Sys2Proof.Tests

set_option Elab.async false

open Sys2Proof Sys2Proof.Machine Sys2Proof.Spec

/-! ## Helpers -/

/-- Operand registers from a list; those not named are 0. -/
def regs (l : List (OpReg × Nat)) : OpRegs := l.foldr (fun p x => x.set p.1 (BitVec.ofNat 32 p.2)) OpRegs.zero

/-- MEM from pieces (address, bytes). -/
def mem (l : List (Nat × List Nat)) : Memory := l.foldr (fun p m => m.storeBytes p.1 (p.2.map (BitVec.ofNat 8))) []

/-- The reset state with operand registers and MEM. -/
def start (x : List (OpReg × Nat)) (m : List (Nat × List Nat)) : State := { State.reset with x := regs x, mem := mem m }

/-- A command in flight. -/
def inFlight (s : State) (c : Word) : State := { s with cur := c, status := { s.status with busy := true } }

/-- A host move next. -/
def withHost (s : State) (m : HostMove) : State := { s with script := [.host m] }

/-- The state an outcome holds, if it is a next state. -/
def state? (o : Host.Outcome State Fault Refusal) : Option State :=
  match o with
  | .next t => some t
  | .fault _ => none
  | .refused _ => none

/-- `STATUS` and n bytes of MEM. -/
def seen (o : Host.Outcome State Fault Refusal) (a n : Nat) : Option (Nat × List Nat) :=
  (state? o).map (fun t => ((statusWord t.status).toNat, (t.readBytes a n).map BitVec.toNat))

/-- `STATUS`, `ERRCODE`, `ERRINFO` and `RES`. -/
def flags (o : Host.Outcome State Fault Refusal) : Option (Nat × Nat × Nat × Nat) :=
  (state? o).map (fun t => ((statusWord t.status).toNat, t.errCode.toNat, t.errInfo.toNat, t.res.toNat))

/-- What the latest read returned. -/
def lastReply (o : Host.Outcome State Fault Refusal) : Option Reply := (state? o).bind (fun t => t.replies.getLast?)

/-! ## WellFormed refuses -/

theorem test_wellFormed_plane : Instr.wellFormed (.fillp 32 true) = false ∧ Instr.wellFormed (.fillp 31 true) = true := by decide

theorem test_kernel_needs_sentinel :
    kernelShapeOk [{ weight := 65536, targets := [target 1 0] }] = false ∧ kernelShapeOk [] = false := by decide

theorem test_kernel_weight_range :
    entryShapeOk { weight := 65537, targets := [target 1 0] } = false ∧ entryShapeOk { weight := 0, targets := [target 1 0] } = false := by
  decide

theorem test_kernel_capacity :
    entryShapeOk { weight := 1, targets := [] } = false ∧ entryShapeOk { weight := 1, targets := List.replicate 7 (target 1 0) } = false ∧
      kernelShapeOk (List.replicate 8 { weight := 1, targets := [target 1 0] } ++ [sentinel]) = false := by decide

theorem test_kernel_sum : sharesSumToUnit [{ dx := 1, dy := 0, weight := 65535 }] = false := by decide

theorem test_kernel_ahead :
    sharesAhead [{ dx := 0, dy := 0, weight := 1 }] = false ∧ sharesAhead [{ dx := -1, dy := 0, weight := 1 }] = false := by decide

theorem test_kernel_distinct :
    sharesDistinct [{ dx := 1, dy := 0, weight := 1 }, { dx := 1, dy := 0, weight := 2 }] = false ∧
      sharesDistinct [{ dx := 1, dy := 0, weight := 0 }] = false := by decide

theorem test_kernel_empty : kernelOk [sentinel] = false := by decide

theorem test_krom_refuses_one_bad_kernel : kromOk { kromRef with sierraLite := [sentinel] } = false := by decide +kernel

theorem test_params_memSize :
    Params.legal { referenceParams with memSize := 0 } = false ∧
      Params.legal { referenceParams with memSize := 4294967296 } = false := by decide +kernel

theorem test_params_maxDim :
    Params.legal { referenceParams with maxDim := 0 } = false ∧ Params.legal { referenceParams with maxDim := 65536 } = false := by
  decide +kernel

theorem test_params_krom :
    Params.legal { referenceParams with krom := { kromRef with stucki := [sentinel] } } = false := by decide +kernel

/-! ## Words written out from `30_encoding.md` R91 to R99 -/

theorem test_decode_format_n :
    decode 0x00000001#32 = .ok .plclr ∧ decode 0x00000003#32 = .ok .deint ∧ decode 0x00000006#32 = .ok .ham6 ∧
      decode 0x00000007#32 = .ok .ham8 ∧ decode 0x00000009#32 = .ok .nearest := by decide

theorem test_decode_format_p :
    decode 0b00000000000000000010000100000010#32 = .ok (.fillp 1 true) ∧
      decode 0b00000000000000000001111100000010#32 = .ok (.fillp 31 false) ∧
      decode 0b00000000000000000011111100000010#32 = .ok (.fillp 31 true) := by decide

theorem test_decode_format_z :
    decode 0x00000004#32 = .ok .solidB ∧ decode 0x00000104#32 = .ok .solidH ∧ decode 0x00000204#32 = .ok .solidW ∧
      decode 0x00000304#32 = .ok .solidSz3 ∧ decode 0x00000005#32 = .ok .expandB ∧ decode 0x00000105#32 = .ok .expandH ∧
      decode 0x00000205#32 = .ok .expandW ∧ decode 0x00000305#32 = .ok .expandSz3 := by decide

theorem test_decode_format_k :
    decode 0x00000008#32 = .ok .rgb2palNone ∧ decode 0x00000108#32 = .ok .rgb2palFs ∧ decode 0x00000208#32 = .ok .rgb2palJjn ∧
      decode 0x00000308#32 = .ok .rgb2palStucki ∧ decode 0x00000408#32 = .ok .rgb2palBurkes ∧
      decode 0x00000508#32 = .ok .rgb2palAtkinson ∧ decode 0x00000608#32 = .ok .rgb2palSierra3 ∧
      decode 0x00000708#32 = .ok .rgb2palSierra2 ∧ decode 0x00000808#32 = .ok .rgb2palSierralite := by decide

theorem test_decode_aliases :
    decode 0x00000908#32 = .ok .rgb2palK9 ∧ decode 0x00000A08#32 = .ok .rgb2palK10 ∧ decode 0x00000B08#32 = .ok .rgb2palK11 ∧
      decode 0x00000C08#32 = .ok .rgb2palK12 ∧ decode 0x00000D08#32 = .ok .rgb2palK13 ∧ decode 0x00000E08#32 = .ok .rgb2palK14 ∧
      decode 0x00000F08#32 = .ok .rgb2palK15 := by decide

/-- The words of vector V31. -/
theorem test_decode_illegal :
    [0x00000000, 0x0000000A, 0x000000FF, 0x00000101, 0x80000003, 0x00004002, 0x00000404, 0x00001008, 0x00000109].all
      (fun w => (decodeTableWord 32 w).isNone) = true := by decide

/-! ## One command at a time, on the vectors of `95_test_vectors.md` -/

/-- V7. -/
theorem test_plclr : seen (exec .plclr (start [(.plb, 0x100), (.w, 17), (.h, 2)] [(0xFF, [1]), (0x140, [2])])) 0xFF 66
    = some (2, 1 :: List.replicate 64 0 ++ [2]) := by decide +kernel

/-- V8. -/
theorem test_fillp : seen (exec (.fillp 1 true) (start [(.w, 16), (.h, 1), (.npl, 2)] [(0, [0, 0, 0, 0, 7])])) 0 5
    = some (2, [0x00, 0x00, 0xFF, 0xFF, 7]) := by decide +kernel

/-- V8: `BADPLANE`. -/
theorem test_fillp_badPlane : flags (exec (.fillp 2 true) (start [(.w, 16), (.h, 1), (.npl, 2)] [])) = some (4, 4, 0, 0) := by
  decide

/-- V3: nine planes, two bytes a pixel. -/
theorem test_deint : seen (exec .deint (start [(.chb, 0x40), (.w, 4), (.h, 1), (.npl, 9)]
      [(0, [0x80, 0, 0x40, 0, 0, 0, 0, 0, 0, 0, 0, 0, 0, 0, 0xC0, 0, 0xA0, 0]), (0x48, [5])])) 0x40 9
    = some (2, [0x81, 0x01, 0x82, 0x00, 0x00, 0x01, 0x00, 0x00, 5]) := by decide +kernel

/-- V5: the bytes between the rows are left alone. -/
theorem test_deint_xtra : seen (exec .deint (start [(.chb, 0x40), (.w, 2), (.h, 2), (.npl, 2), (.xtra, 2)]
      [(0, [0x80, 0, 0x40, 0, 0xC0, 0, 0, 0]), (0x40, List.replicate 8 0xEE)])) 0x40 8
    = some (2, [0x03, 0x02, 0xEE, 0xEE, 0x00, 0x01, 0xEE, 0xEE]) := by decide +kernel

/-- V9. -/
theorem test_solidB : seen (exec .solidB (start [(.chb, 0x20), (.w, 2), (.h, 1), (.color, 0x12345678)] [(0x22, [9])])) 0x20 3
    = some (2, [0x78, 0x78, 9]) := by decide +kernel

/-- V9. -/
theorem test_solidH : seen (exec .solidH (start [(.chb, 0x20), (.w, 2), (.h, 1), (.color, 0x12345678)] [(0x24, [9])])) 0x20 5
    = some (2, [0x78, 0x56, 0x78, 0x56, 9]) := by decide +kernel

/-- V9. -/
theorem test_solidW : seen (exec .solidW (start [(.chb, 0x20), (.w, 2), (.h, 1), (.color, 0x12345678)] [(0x28, [9])])) 0x20 9
    = some (2, [0x78, 0x56, 0x34, 0x12, 0x78, 0x56, 0x34, 0x12, 9]) := by decide +kernel

/-- V32. -/
theorem test_solidSz3 : flags (exec .solidSz3 (start [] [])) = some (4, 2, 0, 0) := by decide

/-- V10. -/
theorem test_expandB : seen (exec .expandB (start [(.chb, 0x40), (.w, 4), (.h, 4), (.sx, 2), (.sy, 2)]
      [(0x40, [3, 2, 0xEE, 0xEE, 0, 1]), (0x50, [7])])) 0x40 17
    = some (2, [3, 3, 2, 2, 3, 3, 2, 2, 0, 0, 1, 1, 0, 0, 1, 1, 7]) := by decide +kernel

/-- V36: `BADSCALE` before `OOM`. -/
theorem test_expandB_badScale : flags (exec .expandB (start [(.chb, 0xFFFFFFFF), (.w, 4), (.h, 4), (.sx, 3), (.sy, 1)] []))
    = some (4, 6, 0, 0) := by decide

/-- V11. -/
theorem test_expandH : seen (exec .expandH (start [(.chb, 0x20), (.w, 6), (.h, 2), (.sx, 3), (.sy, 1)]
      [(0x20, [0x11, 0x22, 0x33, 0x44]), (0x2C, [0x55, 0x66, 0x77, 0x88])])) 0x20 24
    = some (2, [0x11, 0x22, 0x11, 0x22, 0x11, 0x22, 0x33, 0x44, 0x33, 0x44, 0x33, 0x44,
        0x55, 0x66, 0x55, 0x66, 0x55, 0x66, 0x77, 0x88, 0x77, 0x88, 0x77, 0x88]) := by decide +kernel

/-- V12. -/
theorem test_expandW : seen (exec .expandW (start [(.chb, 0x20), (.w, 1), (.h, 4), (.sx, 1), (.sy, 2)]
      [(0x20, [1, 2, 3, 4, 5, 6, 7, 8])])) 0x20 16
    = some (2, [1, 2, 3, 4, 1, 2, 3, 4, 5, 6, 7, 8, 5, 6, 7, 8]) := by decide +kernel

/-- V32. -/
theorem test_expandSz3 : flags (exec .expandSz3 (start [] [])) = some (4, 2, 0, 0) := by decide

/-- V13. -/
theorem test_ham6 : seen (exec .ham6 (start [(.dsb, 0x40), (.palb, 0x100), (.paln, 16), (.w, 5), (.h, 1)]
      [(0, [0x01, 0x1F, 0x2A, 0x35, 0x00]), (0x100, [0x11, 0x22, 0x33, 0xAA, 0xBB, 0xCC])])) 0x40 20
    = some (2, [0xAA, 0xBB, 0xCC, 0xFF, 0xAA, 0xBB, 0xFF, 0xFF, 0xAA, 0xBB, 0xFF, 0xFF, 0xAA, 0x55, 0xFF, 0xFF,
        0x11, 0x22, 0x33, 0xFF]) := by decide +kernel

/-- V17: the first malformed byte is pixel 1. -/
theorem test_ham6_badPixel : flags (exec .ham6 (start [(.dsb, 0x40), (.palb, 0x100), (.paln, 16), (.w, 3), (.h, 1)]
      [(0, [0x01, 0x40, 0x80])])) = some (4, 12, 1, 0) := by decide +kernel

/-- V16. -/
theorem test_ham8 : seen (exec .ham8 (start [(.dsb, 0x40), (.palb, 0x100), (.paln, 64), (.w, 4), (.h, 1)]
      [(0, [0x7F, 0xA1, 0xC0, 0x02]), (0x100, [0x11, 0x22, 0x33, 0, 0, 0, 1, 2, 3])])) 0x40 16
    = some (2, [0x11, 0x22, 0xFF, 0xFF, 0x86, 0x22, 0xFF, 0xFF, 0x86, 0x00, 0xFF, 0xFF, 0x01, 0x02, 0x03, 0xFF]) := by
  decide +kernel

/-- V18. -/
theorem test_nearest : flags (exec .nearest (start [(.paln, 2), (.palf, 1), (.color, 0xFF0A0A0A)]
    [(0, [0, 0, 0, 0xFF, 0xFF, 0xFF])])) = some (2, 0, 0, 1) := by decide +kernel

/-- V20: the red weight depends on the mean of the reds. -/
theorem test_nearest_redmean : flags (exec .nearest (start [(.paln, 3), (.color, 0)]
    [(0, [0, 0, 0x64, 0x64, 0, 0, 0, 0x47, 0])])) = some (2, 0, 0, 2) := by decide +kernel

/-- The source of V22. -/
def v22 : State := start [(.dsb, 0x20), (.palb, 0x10), (.paln, 2), (.w, 2), (.h, 1)]
  [(0, [0x0A, 0x0A, 0x0A, 0xFF, 0xC8, 0xC8, 0xC8, 0x00]), (0x10, [0, 0, 0, 0xFF, 0xFF, 0xFF])]

/-- V22. -/
theorem test_rgb2palNone : seen (exec .rgb2palNone v22) 0x20 2 = some (2, [0, 1]) := by decide +kernel

/-- V29 on the image of V22: every alias gives the bytes of K = 0. -/
theorem test_rgb2pal_aliases : [Instr.rgb2palK9, .rgb2palK10, .rgb2palK11, .rgb2palK12, .rgb2palK13, .rgb2palK14, .rgb2palK15].all
    (fun i => decide (seen (exec i v22) 0x20 2 = some (2, [0, 1]))) = true := by decide +kernel

/-- The image of V23 with the palette of black and white. -/
def g100 : State := start [(.dsb, 0x200), (.palb, 0x100), (.paln, 2), (.w, 4), (.h, 3)]
  [(0, List.replicate 48 100), (0x100, [0, 0, 0, 255, 255, 255])]

/-- V23. -/
theorem test_rgb2palFs : seen (exec .rgb2palFs g100) 0x200 12 = some (2, [0, 1, 0, 0, 0, 1, 0, 1, 0, 1, 0, 0]) := by decide +kernel

/-- V23. -/
theorem test_rgb2palJjn : seen (exec .rgb2palJjn g100) 0x200 12 = some (2, [0, 0, 0, 1, 1, 0, 0, 1, 0, 1, 0, 0]) := by
  decide +kernel

/-- V23. -/
theorem test_rgb2palStucki : seen (exec .rgb2palStucki g100) 0x200 12 = some (2, [0, 0, 1, 0, 0, 1, 0, 0, 1, 0, 1, 0]) := by
  decide +kernel

/-- V23. -/
theorem test_rgb2palBurkes : seen (exec .rgb2palBurkes g100) 0x200 12 = some (2, [0, 0, 1, 0, 1, 0, 0, 1, 0, 1, 0, 0]) := by
  decide +kernel

/-- V23. -/
theorem test_rgb2palAtkinson : seen (exec .rgb2palAtkinson g100) 0x200 12 = some (2, [0, 0, 1, 0, 1, 0, 0, 1, 0, 1, 0, 0]) := by
  decide +kernel

/-- V23. -/
theorem test_rgb2palSierra3 : seen (exec .rgb2palSierra3 g100) 0x200 12 = some (2, [0, 0, 0, 1, 1, 0, 1, 0, 0, 1, 0, 0]) := by
  decide +kernel

/-- V23. -/
theorem test_rgb2palSierra2 : seen (exec .rgb2palSierra2 g100) 0x200 12 = some (2, [0, 0, 1, 0, 0, 1, 0, 0, 0, 1, 1, 0]) := by
  decide +kernel

/-- V23. -/
theorem test_rgb2palSierralite : seen (exec .rgb2palSierralite g100) 0x200 12 = some (2, [0, 1, 0, 0, 0, 1, 0, 1, 0, 1, 0, 0]) := by
  decide +kernel

/-- The image of V30. -/
def v30 (d : ErrDiv) : State :=
  { start [(.dsb, 0x20), (.palb, 0x10), (.paln, 2), (.w, 2), (.h, 1)]
      [(0, [0, 0, 0, 9, 20, 20, 20, 9]), (0x10, [10, 10, 10, 20, 20, 20])] with
    cfg := { referenceParams with errDiv := d } }

/-- V30: `ERRDIV` makes a difference. -/
theorem test_errDiv : seen (exec .rgb2palFs (v30 .trunc)) 0x20 2 = some (2, [0, 1]) ∧
    seen (exec .rgb2palFs (v30 .floor)) 0x20 2 = some (2, [0, 0]) := by decide +kernel

/-! ## The register space and the engine's turn -/

/-- V43: `ID` and `MEMSZ` after reset. -/
theorem test_id_and_memSz : lastReply (step (withHost State.reset (.regRead 0x00))) = some (.reg 0x50444901#32) ∧
    lastReply (step (withHost State.reset (.regRead 0x1C))) = some (.reg 0x00010000#32) := by decide +kernel

/-- V44: a write dropped while BUSY sets OVR. -/
theorem test_write_dropped_while_busy :
    (state? (step (withHost (inFlight (start [(.w, 4)] []) 3#32) (.regWrite 0x58 9#32)))).map
      (fun t => (t.x.w, (statusWord t.status).toNat)) = some (4#32, 9) := by decide +kernel

/-- The placed command is the next to run: the engine's turn takes `ILLCMD` on the all-zero word (V31). -/
theorem test_withFetchWord : flags (step (State.reset.withFetchWord 32 0)) = some (4, 1, 0, 0) ∧
    flags (step (State.reset.withFetchWord 32 0x00000003)) = some (2, 0, 0, 0) := by decide +kernel

/-! ## Witnesses: concrete states that meet the hypotheses of each statement

A statement without hypotheses has none here. -/

/-- An idle state that every command can run on: a 2×2 image, its planes at 0, chunky bytes at 0x40, results at 0x80, a palette of
64 entries at 0x100, its first entries (200, 200, 200) and (0, 0, 0). -/
def bench : State :=
  start [(.chb, 0x40), (.dsb, 0x80), (.palb, 0x100), (.paln, 64), (.w, 2), (.h, 2), (.npl, 1), (.xtra, 2), (.sx, 2), (.sy, 2)]
    [(0x40, [1, 2, 3, 4, 5, 6, 7, 8]), (0x100, [200, 200, 200, 0, 0, 0])]

/-- `bench` with a command in flight. -/
def benchRun (c : Word) : State := inFlight bench c

/-- `bench` on its largest image: both dimensions at MAXDIM. -/
def largeImage : State :=
  { bench with x := { bench.x with w := 65535, h := 65535 }, cfg := { referenceParams with memSize := 4294967295 } }

theorem bench_dims : DimsOk bench := by unfold DimsOk; decide

theorem bench_scale : ScaleOk bench := by unfold ScaleOk; decide

theorem bench_plx : InMem bench (plxRange bench) := by unfold InMem plxRange planeBytes pitch; decide

theorem bench_cx : InMem bench (cxRange bench 1) ∧ InMem bench (cxRange bench 2) ∧ InMem bench (cxRange bench 4) := by
  unfold InMem cxRange; decide

theorem bench_placed_deint : Placed .deint bench := by
  unfold Placed checkedRanges testedPairs InMem Overlap plxRange ddxRange destStride planeBytes pitch pixelWidth; decide

theorem bench_placed_ham6 : Placed .ham6 bench := by
  unfold Placed checkedRanges testedPairs InMem Overlap cxRange pxRange dxRange; decide

theorem bench_placed_ham8 : Placed .ham8 bench := by
  unfold Placed checkedRanges testedPairs InMem Overlap cxRange pxRange dxRange; decide

theorem bench_placed_direct : Placed (.rgb2pal none) bench := by
  unfold Placed checkedRanges testedPairs InMem Overlap cxRange pxRange dxRange; decide

theorem bench_placed_rgb (k : Option KernelId) : Placed (.rgb2pal k) bench := bench_placed_direct

theorem bench_legal : bench.cfg.legal = true := by decide +kernel

theorem witness_StepRunsTheDecodedCommand :
    (benchRun 3#32).status.busy = true ∧ decode (benchRun 3#32).cur = .ok .deint ∧ (benchRun 3#32).script = [] ∧
      ({ benchRun 3#32 with script := [.engine] } : State).script = .engine :: [] := by decide

theorem witness_IdleEngineKeepsAllState :
    bench.status.busy = false ∧ bench.script = [] ∧ ({ bench with script := [.engine] } : State).script = .engine :: [] := by
  decide

/-- The engine's turn with an undecodable word. -/
theorem witness_ChecksInFixedOrder_illegal :
    (benchRun 0#32).status.busy = true ∧ (benchRun 0#32).script = [] ∧ decode (benchRun 0#32).cur = .error .illegalOpcode := by
  decide

/-- Stage 2, the first after the word itself, fails first. -/
theorem witness_ChecksInFixedOrder_first :
    (benchRun 0x304#32).status.busy = true ∧ (benchRun 0x304#32).script = [] ∧
      decode (benchRun 0x304#32).cur = .ok .solidSz3 ∧ stageFails 2 (family .solidSz3) (benchRun 0x304#32) ∧
      ∀ m, 2 ≤ m → m < 2 → ¬stageFails m (family .solidSz3) (benchRun 0x304#32) :=
  ⟨by decide, by decide, by decide, rfl, fun m h1 h2 => by omega⟩

/-- Stage 12, the last, fails first: a malformed byte is the whole of what is wrong. -/
def malformed : State :=
  inFlight { bench with x := { bench.x with paln := 16 }, mem := mem [(0x40, [1, 2, 3, 0x40])] } 6#32

theorem witness_ChecksInFixedOrder_last :
    malformed.status.busy = true ∧ malformed.script = [] ∧ decode malformed.cur = .ok .ham6 ∧
      stageFails 12 (family .ham6) malformed ∧ ∀ m, 2 ≤ m → m < 12 → ¬stageFails m (family .ham6) malformed := by
  refine ⟨by decide, by decide, by decide, ⟨rfl, 3, by decide +kernel, by decide +kernel, by decide +kernel⟩, fun m h1 h2 => ?_⟩
  have hd : DimsOk malformed := by unfold DimsOk; decide
  have hp : (∀ r ∈ checkedRanges .ham6 malformed, InMem malformed r) ∧ ∀ p ∈ testedPairs .ham6 malformed, ¬Overlap p.1 p.2 := by
    unfold checkedRanges testedPairs InMem Overlap cxRange pxRange dxRange; decide
  have hn : malformed.x.paln.toNat = 16 := by decide
  interval_cases m <;> simp only [stageFails, family] <;> simp [hd, hn] <;>
    first
      | exact fun a b h => hp.1 (a, b) h
      | exact fun a b c d h => hp.2 ((a, b), (c, d)) h

/-- No stage fails: `NEAREST` over the whole palette. -/
theorem witness_ChecksInFixedOrder_none :
    (benchRun 9#32).status.busy = true ∧ (benchRun 9#32).script = [] ∧ decode (benchRun 9#32).cur = .ok .nearest ∧
      ∀ n, 2 ≤ n → n ≤ 12 → ¬stageFails n (family .nearest) (benchRun 9#32) := by
  refine ⟨by decide, by decide, by decide, fun n h1 h2 => ?_⟩
  have hp : ∀ r ∈ checkedRanges .nearest (benchRun 9#32), InMem (benchRun 9#32) r := by
    unfold checkedRanges InMem pxRange; decide
  have hn : (benchRun 9#32).x.paln.toNat = 64 := by decide
  have hf : (benchRun 9#32).x.palf.toNat = 0 := by decide
  interval_cases n <;> simp only [stageFails, family] <;> simp [hn, hf, testedPairs]
  exact fun a b h => hp (a, b) h

theorem witness_InvariantHoldsAtReset : referenceParams.legal = true := by decide +kernel

theorem witness_InvariantKeptByEveryStep :
    (benchRun 3#32).inv = true ∧ ∃ t, step (benchRun 3#32) = .next t ∧ t ≠ benchRun 3#32 := by
  refine ⟨by decide +kernel, (step_of_nil (s := benchRun 3#32) rfl).symm ▸ ?_⟩
  obtain ⟨t, ht, hb⟩ : ∃ t, engineTurn (benchRun 3#32) = .next t ∧ t.status.busy = false := by
    rcases execute_cases (benchRun 3#32) with ⟨f, e⟩ | ⟨i, m, v, -, -, e⟩
    · exact ⟨_, e, rfl⟩
    · exact ⟨_, e, rfl⟩
  exact ⟨t, ht, fun h => by rw [h] at hb; exact absurd hb (by decide)⟩

theorem witness_CommandsWriteOnlyTheirExtents :
    (∃ t, exec .nearest bench = .next t) ∧ ¬writes (family .solidB) bench 0x3F ∧ ¬writes (family .solidB) bench 0x44 ∧
      ¬writes (family .nearest) bench 0 := by
  refine ⟨?_, ?_, ?_, fun h => h⟩
  · rcases exec_cases .nearest bench with ⟨f, e⟩ | ⟨m, v, e⟩
    · exact ⟨_, e⟩
    · exact ⟨_, e⟩
  · unfold writes family Within cxRange; decide
  · unfold writes family Within cxRange; decide

/-- `bench` with another plane address, another result and another byte of MEM. -/
def otherwise : State :=
  { bench with x := { bench.x with plb := 7 }, res := 5, mem := bench.mem.store 0x80 1 }

/-- Two different states that `NEAREST` cannot tell apart. -/
theorem witness_CommandsDependOnlyOnTheirOperands :
    bench ≠ otherwise ∧ bench.cfg = otherwise.cfg ∧ (∀ r ∈ usedRegs (family .nearest), bench.x.get r = otherwise.x.get r) ∧
      ∀ a, reads (family .nearest) bench a → bench.readByte a = otherwise.readByte a := by
  refine ⟨by decide +kernel, rfl, by decide, fun a h => ?_⟩
  have ha : (0x100 : Nat) ≤ a := h.1
  have e : otherwise.readByte a = bench.readByte a := by
    show ((bench.mem.store 0x80 1).lookup a).getD _ = _
    rw [Memory.lookup_store_other _ _ (by omega)]
    rfl
  exact e.symm

theorem witness_PlclrZeroesTheBuffer :
    bench.x.npl.toNat ≤ 31 ∧ DimsOk bench ∧ InMem bench (plxRange bench) ∧ DimsOk largeImage :=
  ⟨by decide, bench_dims, bench_plx, by unfold DimsOk; decide⟩

theorem witness_FillpFillsOnePlane : bench.x.npl.toNat ≤ 31 ∧ 0 < bench.x.npl.toNat ∧ DimsOk bench ∧ InMem bench (plxRange bench) :=
  ⟨by decide, by decide, bench_dims, bench_plx⟩

theorem witness_DeintPacksThePlanes :
    1 ≤ bench.x.npl.toNat ∧ bench.x.npl.toNat ≤ 31 ∧ DimsOk bench ∧ Placed .deint bench :=
  ⟨by decide, by decide, bench_dims, bench_placed_deint⟩

theorem witness_DeintOfNoPlanesIsANoOp : (start [(.plb, 0xFFFFFFFF), (.chb, 0xFFFFFFFF)] []).x.npl.toNat = 0 := by decide

theorem witness_DeintIsAByteTranspose :
    1 ≤ bench.x.npl.toNat ∧ bench.x.npl.toNat ≤ 8 ∧ DimsOk bench ∧ Placed .deint bench ∧ 8 * 0 + 1 < bench.x.w.toNat :=
  ⟨by decide, by decide, bench_dims, bench_placed_deint, by decide⟩

theorem witness_FilledPlaneDeinterleavesToItsBit : bench.x.npl.toNat = 1 ∧ DimsOk bench ∧ Placed .deint bench :=
  ⟨by decide, bench_dims, bench_placed_deint⟩

theorem witness_SolidFillsEveryPixel :
    (Instr.solidB, 1) ∈ [(Instr.solidB, 1), (Instr.solidH, 2), (Instr.solidW, 4)] ∧ DimsOk bench ∧ InMem bench (cxRange bench 1) ∧
      InMem bench (cxRange bench 2) ∧ InMem bench (cxRange bench 4) :=
  ⟨by decide, bench_dims, bench_cx⟩

theorem witness_BadPixelWidthFaults : Instr.solidSz3 ∈ [Instr.solidSz3, Instr.expandSz3] ∧
    Instr.expandSz3 ∈ [Instr.solidSz3, Instr.expandSz3] := by decide

theorem witness_ExpandReplicatesPixels :
    (Instr.expandW, 4) ∈ [(Instr.expandB, 1), (Instr.expandH, 2), (Instr.expandW, 4)] ∧ DimsOk bench ∧ ScaleOk bench ∧
      InMem bench (cxRange bench 1) ∧ InMem bench (cxRange bench 2) ∧ InMem bench (cxRange bench 4) :=
  ⟨by decide, bench_dims, bench_scale, bench_cx⟩

theorem witness_ExpandInPlaceOrderAgrees :
    (Instr.expandB, 1) ∈ [(Instr.expandB, 1), (Instr.expandH, 2), (Instr.expandW, 4)] ∧ DimsOk bench ∧ ScaleOk bench ∧
      InMem bench (cxRange bench 1) ∧ InMem bench (cxRange bench 2) ∧ InMem bench (cxRange bench 4) :=
  ⟨by decide, bench_dims, bench_scale, bench_cx⟩

/-- `bench` with both factors 1. -/
def unscaled : State := { bench with x := { bench.x with sx := 1, sy := 1 } }

theorem witness_ExpandByOneIsTheIdentity :
    DimsOk unscaled ∧ unscaled.x.sx.toNat = 1 ∧ unscaled.x.sy.toNat = 1 ∧ InMem unscaled (cxRange unscaled 4) :=
  ⟨bench_dims, by decide, by decide, bench_cx.2.2⟩

theorem witness_Ham6Reconstructs :
    DimsOk bench ∧ 16 ≤ bench.x.paln.toNat ∧ bench.x.paln.toNat ≤ 256 ∧ Placed .ham6 bench ∧
      ∀ i, i < bench.x.w.toNat * bench.x.h.toNat → (bench.readByte (bench.x.chb.toNat + i)).toNat < 64 := by
  refine ⟨bench_dims, by decide, by decide, bench_placed_ham6, fun i hi => ?_⟩
  have hi : i < 4 := hi
  interval_cases i <;> decide +kernel

theorem witness_Ham8Reconstructs :
    DimsOk bench ∧ 64 ≤ bench.x.paln.toNat ∧ bench.x.paln.toNat ≤ 256 ∧ Placed .ham8 bench :=
  ⟨bench_dims, by decide, by decide, bench_placed_ham8⟩

theorem witness_NearestFindsTheLowestBestIndex :
    bench.x.paln.toNat ≤ 256 ∧ bench.x.palf.toNat < bench.x.paln.toNat ∧ InMem bench (pxRange bench) :=
  ⟨by decide, by decide, by unfold InMem pxRange; decide⟩

/-- `bench` with no palette. -/
def noPalette : State := { bench with x := { bench.x with paln := 0 } }

theorem witness_EmptyPaletteFaults :
    noPalette.x.paln.toNat ≤ 256 ∧ noPalette.x.paln.toNat ≤ noPalette.x.palf.toNat ∧ DimsOk noPalette ∧
      noPalette.x.paln.toNat = 0 ∧ (∃ k, family .rgb2palNone = .rgb2pal k) ∧ (∃ k, family .rgb2palFs = .rgb2pal k) :=
  ⟨by decide, by decide, bench_dims, by decide, ⟨none, rfl⟩, ⟨some .floydSteinberg, rfl⟩⟩

theorem witness_DirectMappingOfEachPixel :
    Instr.rgb2palK15 ∈ [Instr.rgb2palNone, Instr.rgb2palK9, Instr.rgb2palK10, Instr.rgb2palK11, Instr.rgb2palK12, Instr.rgb2palK13,
      Instr.rgb2palK14, Instr.rgb2palK15] ∧ DimsOk bench ∧ 1 ≤ bench.x.paln.toNat ∧ bench.x.paln.toNat ≤ 256 ∧
      Placed (.rgb2pal none) bench :=
  ⟨by decide, bench_dims, by decide, by decide, bench_placed_rgb none⟩

theorem witness_AliasSelectorsRunAsNone :
    0x00000F08#32 ∈ [0x00000908#32, 0x00000A08#32, 0x00000B08#32, 0x00000C08#32, 0x00000D08#32, 0x00000E08#32, 0x00000F08#32] := by
  decide

theorem witness_DitherIsErrorPulledFromItsSources :
    bench.cfg.legal = true ∧ DimsOk bench ∧ 1 ≤ bench.x.paln.toNat ∧ bench.x.paln.toNat ≤ 256 ∧
      Placed (.rgb2pal (some .floydSteinberg)) bench ∧ Placed (.rgb2pal (some .sierraLite)) bench :=
  ⟨bench_legal, bench_dims, by decide, by decide, bench_placed_rgb _, bench_placed_rgb _⟩

theorem witness_ErrorCellsStayBounded :
    bench.cfg.legal = true ∧ bench.x.w.toNat ≤ bench.x.w.toNat ∧
      (ditherRow (bench.ditherContext .stucki) (fun col => bench.sourcePixel col 0)
        (ditherRows (bench.ditherContext .stucki) bench.sourcePixel 0).2 0).2.row0 ≠ [] :=
  ⟨bench_legal, Nat.le_refl _, by decide⟩

theorem witness_IndicesBelowThePaletteSize :
    family .rgb2palBurkes = .rgb2pal (some .burkes) ∧ family .rgb2palNone = .rgb2pal none ∧ DimsOk bench ∧
      1 ≤ bench.x.paln.toNat ∧ bench.x.paln.toNat ≤ 256 ∧ Placed (.rgb2pal (some .burkes)) bench ∧
      Placed (.rgb2pal none) bench :=
  ⟨rfl, rfl, bench_dims, by decide, by decide, bench_placed_rgb _, bench_placed_rgb _⟩

theorem witness_RegisterReadsFollowTheTable :
    (withHost bench (.regRead 0x00)).script = .host (.regRead 0x00) :: [] ∧
      regTable (withHost bench (.regRead 0x00)) 0x00 = some 0x50444901#32 ∧
      (withHost bench (.regRead 0xFC)).script = .host (.regRead 0xFC) :: [] ∧
      regTable (withHost bench (.regRead 0xFC)) 0xFC = some 0 := by decide

theorem witness_ReservedAndReadOnlyRegisters :
    ReservedOffset 0x20 ∧ ReservedOffset 0x3C ∧ ReservedOffset 0x74 ∧ ReservedOffset 0xFC ∧ ¬ReservedOffset 0x1C ∧
      ¬ReservedOffset 0x40 ∧ ¬ReservedOffset 0x70 ∧ ReadOnlyOffset 0x00 ∧ ReadOnlyOffset 0x1C ∧
      (0xFFFFFFFE#32).getLsbD 0 = bench.ien ∧ (0xFFFFFFF1#32).toNat % 16 / 2 = 0 ∧ (0x41 % 4 ≠ 0 ∨ 0xFC < 0x41) ∧
      (0x100 % 4 ≠ 0 ∨ 0xFC < 0x100) ∧ (∃ t, step (withHost bench (.regRead 0x20)) = .next t) := by
  refine ⟨?_, ?_, ?_, ?_, ?_, ?_, ?_, ?_, ?_, by decide, by decide, by decide, by decide, ⟨_, rfl⟩⟩ <;>
    first
      | (unfold ReservedOffset; decide)
      | (unfold ReadOnlyOffset; decide)

theorem witness_OperandRegisterAccess :
    (withHost bench (.regWrite (0x40 + 4 * OpReg.index .plb) 5#32)).script = .host (.regWrite (0x40 + 4 * OpReg.index .plb) 5#32) :: [] ∧
      (withHost bench (.regWrite 0x70 5#32)).script = .host (.regWrite (0x40 + 4 * OpReg.index .color) 5#32) :: [] ∧
      bench.status.busy = false ∧ (benchRun 3#32).status.busy = true ∧
      (withHost bench (.regRead 0x70)).script = .host (.regRead (0x40 + 4 * OpReg.index .color)) :: [] := by decide

theorem witness_CmdWriteAcceptsOrDrops :
    (withHost bench (.regWrite 0x14 3#32)).script = .host (.regWrite 0x14 3#32) :: [] ∧ bench.status.busy = false ∧
      bench.status.err = false ∧ (benchRun 3#32).status.busy = true ∧ (bench.raise .oom).status.err = true ∧
      (withHost bench (.regRead 0x14)).script = .host (.regRead 0x14) :: [] := by decide

theorem witness_StatusWriteOneToClear :
    (withHost (bench.raise .oom) (.regWrite 0x08 4#32)).script = .host (.regWrite 0x08 4#32) :: [] ∧
      (4#32).getLsbD 2 = true ∧ (0#32).getLsbD 2 = false := by decide

theorem witness_CtrlHoldsTheInterruptEnable :
    (withHost bench (.regWrite 0x04 1#32)).script = .host (.regWrite 0x04 1#32) :: [] ∧
      (withHost bench (.regRead 0x04)).script = .host (.regRead 0x04) :: [] ∧ bench.ien = false ∧
      ({ bench with ien := true } : State).ien = true := by decide

/-- A `NEAREST` in flight whose answer is entry 1, and a reset of a state with a result. -/
theorem witness_ResIsWrittenByNearestOnly :
    flags (step (benchRun 9#32)) = some (2, 0, 0, 1) ∧ (benchRun 9#32).res = 0 ∧
      (state? (step (withHost { bench with res := 5 } .reset))).map (fun t => t.res) = some 0 := by decide +kernel

theorem witness_HostMemoryWhileIdle :
    bench.status.busy = false ∧ 0 < bench.cfg.memSize ∧ 65535 < bench.cfg.memSize ∧
      (withHost bench (.memWrite 65535 7)).script = .host (.memWrite 65535 7) :: [] ∧
      (withHost bench (.memRead 0)).script = .host (.memRead 0) :: [] := by decide

theorem witness_NoHostMemoryWhileBusy :
    (benchRun 3#32).status.busy = true ∧
      (withHost (benchRun 3#32) (.memRead 0)).script = .host (.memRead 0) :: [] ∧
      (withHost (benchRun 3#32) (.memWrite 0 1)).script = .host (.memWrite 0 1) :: [] := by decide

theorem witness_NoHostMemoryOutsideMem :
    bench.status.busy = false ∧ bench.cfg.memSize ≤ 65536 ∧
      (withHost bench (.memRead 65536)).script = .host (.memRead 65536) :: [] ∧
      (withHost bench (.memWrite 65536 1)).script = .host (.memWrite 65536 1) :: [] := by decide

theorem witness_ResetInEveryState : (withHost (benchRun 3#32) .reset).script = .host .reset :: [] := by decide

theorem witness_InterruptOutput :
    (∃ t, step (withHost (bench.raise .oom) (.regWrite 0x08 6#32)) = .next t) ∧ (6#32).getLsbD 1 = true ∧
      (6#32).getLsbD 2 = true ∧ (∃ t, step (withHost bench (.regWrite 0x14 3#32)) = .next t) ∧ bench.status.busy = false ∧
      bench.status.err = false ∧ (∃ t, step (withHost bench (.regWrite 0x04 2#32)) = .next t) ∧ (2#32).getLsbD 0 = false ∧
      (∃ t, step (withHost bench .reset) = .next t) :=
  ⟨⟨_, rfl⟩, by decide, by decide, ⟨_, rfl⟩, by decide, by decide, ⟨_, rfl⟩, by decide, ⟨_, rfl⟩⟩

theorem witness_ErrIsSticky :
    (bench.raise .oom).status.err = true ∧ (∃ t, step (withHost (bench.raise .oom) (.regWrite 0x14 3#32)) = .next t) ∧
      (∃ t, step (withHost (bench.raise .oom) (.regWrite 0x08 4#32)) = .next t) :=
  ⟨by decide, ⟨_, rfl⟩, ⟨_, rfl⟩⟩

/-- A dropped write, a clearing and an acceptance. -/
theorem witness_OvrRecordsADroppedWrite :
    ((state? (step (withHost (benchRun 3#32) (.regWrite 0x40 1#32)))).map (fun t => t.status.ovr) = some true ∧
      (benchRun 3#32).status.ovr = false) ∧
      (state? (step (withHost { bench with status := bench.status.overrun } (.regWrite 0x08 8#32)))).map
        (fun t => t.status.ovr) = some false ∧
      (withHost bench (.regWrite 0x14 3#32)).script = .host (.regWrite 0x14 3#32) :: [] ∧ bench.status.busy = false ∧
      bench.status.err = false ∧ (∃ t, step (withHost bench (.regWrite 0x14 3#32)) = .next t) :=
  ⟨by decide +kernel, by decide +kernel, by decide, by decide, by decide, ⟨_, rfl⟩⟩

theorem witness_OperandRegistersAreTheHosts :
    (∃ t, step (withHost bench (.regWrite 0x58 9#32)) = .next t ∧ t.x.get .w ≠ (withHost bench (.regWrite 0x58 9#32)).x.get .w) ∧
      (∃ t, step (withHost bench .reset) = .next t ∧ t.x.get .w ≠ (withHost bench .reset).x.get .w) :=
  ⟨⟨_, rfl, by decide⟩, ⟨_, rfl, by decide⟩⟩

theorem witness_ConstantsNeverChange : ∃ t, step (withHost bench .reset) = .next t := ⟨_, rfl⟩

theorem witness_CommandInFlightEnds :
    (benchRun 3#32).status.busy = true ∧ (benchRun 3#32).script = [] ∧ (benchRun 3#32).status.done = false ∧
      (benchRun 3#32).status.err = false := by decide

theorem witness_WaitEndsIdle :
    ({ bench with script := [.wait] } : State).script = .wait :: [] ∧
      ({ benchRun 3#32 with script := [.wait] } : State).script = .wait :: [] := by decide

/-- A 2×2 image of one plane, scaled to 4×4 and to itself. -/
theorem witness_PlanarToChunkyScalesTheImage :
    bench.cfg.legal = true ∧ bench.status.busy = false ∧ bench.status.err = false ∧
      ({ bench with script := scriptTurns (planar2chunky 0 0x40 2 2 1 2 2) } : State).script
        = scriptTurns (planar2chunky 0 0x40 2 2 1 2 2) ∧
      2 * 2 ≤ bench.cfg.maxDim ∧ InMem bench (0, pitch 2 * 2 * max 1 8) ∧
      InMem bench (0x40, 2 * 2 * (2 * 2) * pixelWidth 1) ∧
      ¬Overlap (0x40, 2 * 2 * (2 * 2) * pixelWidth 1) (0, pitch 2 * 2 * max 1 8) := by
  refine ⟨bench_legal, by decide, by decide, rfl, by decide, ?_, ?_, ?_⟩
  · unfold InMem pitch; decide
  · unfold InMem pixelWidth; decide
  · unfold Overlap pitch pixelWidth; decide

end Sys2Proof.Tests
end

section
/-! PROOFS. The commands by family: the checks and the effect of each family of `Spec.family`, said once, so that a proof
about every command is a case split over the ten families. -/

namespace Sys2Proof.Machine

open Sys2Proof.Spec

/-! ## What a family checks and writes -/

/-- The checks of a family in their order (`60_exceptions.md` R236). -/
def familyChecks : Family → State → List (Option PdiFault)
  | .plclr, s => plclrChecks s
  | .fillp plane _, s => fillpChecks plane s
  | .deint, s => checkPlanes s :: (if s.x.npl.toNat = 0 then [] else deintChecks s)
  | .solid b, s => solidChecks b s
  | .expand b, s => expandChecks b s
  | .badWidth, _ => [some .badBpp]
  | .ham6, s => hamChecks 16 s ++ [checkPixels s]
  | .ham8, s => hamChecks 64 s
  | .rgb2pal _, s => rgb2palChecks s
  | .nearest, s => nearestChecks s

/-- MEM as a completed command of the family leaves it. -/
def familyMem : Family → State → Memory
  | .plclr, s => s.mem.storeBytes s.x.plx.base (List.replicate s.x.plx.len 0x00)
  | .fillp plane set, s =>
    s.mem.storeBytes (s.x.plb.toNat + plane * s.x.planeSize) (List.replicate s.x.planeSize (if set then 0xFF else 0x00))
  | .deint, s =>
    if s.x.npl.toNat = 0 then s.mem
    else s.mem.storeImage s.x.chb.toNat s.x.deintStride s.x.w.toNat (bpp s.x.npl.toNat) s.deintPixel s.x.h.toNat
  | .solid b, s =>
    s.mem.storeImage s.x.chb.toNat (s.x.w.toNat * b) s.x.w.toNat b (fun _ _ => s.x.color.toNat) s.x.h.toNat
  | .expand b, s =>
    s.mem.storeImage s.x.chb.toNat (s.x.w.toNat * b) s.x.w.toNat b (fun col row => s.expandPixel b col row) s.x.h.toNat
  | .badWidth, s => s.mem
  | .ham6, s => s.mem.storeBytes s.x.dsb.toNat (s.hamOutput ham6Action)
  | .ham8, s => s.mem.storeBytes s.x.dsb.toNat (s.hamOutput ham8Action)
  | .rgb2pal none, s =>
    s.mem.storeImage s.x.dsb.toNat s.x.w.toNat s.x.w.toNat 1
      (fun col row => s.paletteIndex (s.sourcePixel col row)) s.x.h.toNat
  | .rgb2pal (some k), s => s.mem.storeBytes s.x.dsb.toNat (s.ditherOutput k)
  | .nearest, s => s.mem

/-- `RES` as a completed command of the family leaves it (`10_state.md` R33). -/
def familyRes (f : Family) (s : State) : Word :=
  if f = .nearest then BitVec.ofNat 32 (nearest s.pal (queryColour s.x.color) s.x.palf.toNat s.x.paln.toNat) else s.res

/-- The state of a command of the family before its completion. -/
def familyEffect (f : Family) (s : State) : State := (s.setMem (familyMem f s)).setRes (familyRes f s)

/-- `exec` is the run of its family's checks and effect. -/
theorem exec_eq_runCommand (i : Instr) (s : State) :
    exec i s = runCommand (familyChecks (family i) s) (familyEffect (family i)) s := by
  cases i with
  | deint =>
    show execDeint s = _
    unfold execDeint runCommand
    by_cases h : s.x.npl.toNat = 0
    · simp only [family, familyChecks, familyEffect, familyMem, familyRes, h, if_true]
      rfl
    · simp only [family, familyChecks, familyEffect, familyMem, familyRes, h, if_false]
      rfl
  | _ => rfl

/-- The two ways `exec` ends, by the checks of the family. -/
theorem exec_outcome (i : Instr) (s : State) :
    (∃ f, firstFault (familyChecks (family i) s) = some f ∧ exec i s = .next (s.raise f)) ∨
      (firstFault (familyChecks (family i) s) = none ∧ exec i s = .next (familyEffect (family i) s).complete) := by
  rw [exec_eq_runCommand]
  exact runCommand_cases _ _ _

theorem family_eq_nearest {i : Instr} (h : family i = .nearest) : i = .nearest := by
  cases i <;> first | rfl | cases h

theorem familyRes_other {f : Family} (h : f ≠ .nearest) (s : State) : familyRes f s = s.res := if_neg h

theorem familyRes_nearest (s : State) :
    familyRes .nearest s
      = BitVec.ofNat 32 (nearest s.pal (queryColour s.x.color) s.x.palf.toNat s.x.paln.toNat) := rfl

/-! ## Checks that pass -/

theorem firstFault_cons_eq_none {c : Option PdiFault} {rest : List (Option PdiFault)} :
    firstFault (c :: rest) = none ↔ c = none ∧ firstFault rest = none := by
  cases c <;> simp

theorem firstFault_append_eq_none {cs ds : List (Option PdiFault)} :
    firstFault (cs ++ ds) = none ↔ firstFault cs = none ∧ firstFault ds = none := by
  simp only [firstFault_eq_none, List.forall_mem_append]

/-- A command of a family with a wrong pixel width never passes (`30_encoding.md` R95). -/
theorem not_badWidth_pass {s : State} : firstFault (familyChecks .badWidth s) ≠ none := by
  simp [familyChecks]

theorem plclr_fits {s : State} (h : firstFault (familyChecks .plclr s) = none) :
    s.x.plx.base + s.x.plx.len ≤ s.cfg.memSize := by
  simp only [familyChecks, plclrChecks, firstFault_cons_eq_none, checkFits_eq_none] at h
  obtain ⟨_, _, hfits, _⟩ := h
  exact hfits

theorem fillp_pass {plane : Nat} {set : Bool} {s : State} (h : firstFault (familyChecks (.fillp plane set) s) = none) :
    plane < s.x.npl.toNat ∧ s.x.plx.base + s.x.plx.len ≤ s.cfg.memSize := by
  simp only [familyChecks, fillpChecks, firstFault_cons_eq_none, checkPlane_eq_none, checkFits_eq_none] at h
  obtain ⟨_, hplane, _, hfits, _⟩ := h
  exact ⟨hplane, hfits⟩

theorem deint_fits {s : State} (h : firstFault (familyChecks .deint s) = none) (hn : s.x.npl.toNat ≠ 0) :
    s.x.ddx.base + s.x.ddx.len ≤ s.cfg.memSize := by
  simp only [familyChecks, if_neg hn, deintChecks, firstFault_cons_eq_none, checkFits_eq_none] at h
  obtain ⟨_, _, _, hfits, _⟩ := h
  exact hfits

theorem solid_fits {b : Nat} {s : State} (h : firstFault (familyChecks (.solid b) s) = none) :
    (s.x.cx b).base + (s.x.cx b).len ≤ s.cfg.memSize := by
  simp only [familyChecks, solidChecks, firstFault_cons_eq_none, checkFits_eq_none] at h
  obtain ⟨_, hfits, _⟩ := h
  exact hfits

theorem expand_pass {b : Nat} {s : State} (h : firstFault (familyChecks (.expand b) s) = none) :
    (s.x.sx.toNat ∣ s.x.w.toNat ∧ s.x.sy.toNat ∣ s.x.h.toNat) ∧ (s.x.cx b).base + (s.x.cx b).len ≤ s.cfg.memSize := by
  simp only [familyChecks, expandChecks, firstFault_cons_eq_none, checkScale_eq_none, checkFits_eq_none] at h
  obtain ⟨_, ⟨_, _, hsx, hsy⟩, hfits, _⟩ := h
  exact ⟨⟨Nat.dvd_of_mod_eq_zero hsx, Nat.dvd_of_mod_eq_zero hsy⟩, hfits⟩

theorem hamChecks_fits {least : Nat} {s : State} (h : firstFault (hamChecks least s) = none) :
    (s.x.dx 4).base + (s.x.dx 4).len ≤ s.cfg.memSize := by
  simp only [hamChecks, firstFault_cons_eq_none, checkFits_eq_none] at h
  obtain ⟨_, _, _, _, _, hfits, _⟩ := h
  exact hfits

theorem ham6_pass {s : State} (h : firstFault (familyChecks .ham6 s) = none) :
    firstFault (hamChecks 16 s) = none ∧ ∀ c ∈ s.hamSource, c >>> 6 = 0 := by
  simp only [familyChecks, firstFault_append_eq_none, firstFault_cons_eq_none, checkPixels_eq_none] at h
  obtain ⟨hham, hcodes, _⟩ := h
  exact ⟨hham, hcodes⟩

theorem rgb2pal_pass {k : Option KernelId} {s : State} (h : firstFault (familyChecks (.rgb2pal k) s) = none) :
    0 < s.x.paln.toNat ∧ (s.x.dx 1).base + (s.x.dx 1).len ≤ s.cfg.memSize := by
  simp only [familyChecks, rgb2palChecks, firstFault_cons_eq_none, checkFits_eq_none, failIf_eq_none,
    decide_eq_false_iff_not] at h
  obtain ⟨_, _, hpaln, _, _, hfits, _⟩ := h
  exact ⟨by omega, hfits⟩

theorem nearest_pass {s : State} (h : firstFault (familyChecks .nearest s) = none) :
    s.x.paln.toNat ≤ 256 ∧ s.x.palf.toNat < s.x.paln.toNat := by
  simp only [familyChecks, nearestChecks, firstFault_cons_eq_none, checkPal_eq_none, failIf_eq_none,
    decide_eq_false_iff_not] at h
  obtain ⟨hpal, hrange, _⟩ := h
  exact ⟨hpal, by omega⟩

end Sys2Proof.Machine
end

section
/-! PROOFS. What one step can do, said once; what a register write leaves alone. -/

namespace Sys2Proof.Machine

/-- Everything a step that answers a next state can be: a turn of the engine, a move of the host, or a poll of `WAIT`, which
changes the script and the replies only. -/
theorem step_cases {s t : State} (h : step s = .next t) :
    (∃ rest, (s.script = [] ∨ s.script = .engine :: rest) ∧ engineTurn { s with script := rest } = .next t) ∨
    (∃ m rest, s.script = .host m :: rest ∧ hostMove m { s with script := rest } = .next t) ∨
    (∃ script replies, t = { s with script := script, replies := replies }) := by
  cases hs : s.script with
  | nil =>
    refine Or.inl ⟨[], Or.inl rfl, ?_⟩
    rw [← hs]
    exact step_of_nil hs ▸ h
  | cons turn rest =>
    cases turn with
    | engine => exact Or.inl ⟨rest, Or.inr rfl, step_of_engine hs ▸ h⟩
    | host m => exact Or.inr (Or.inl ⟨m, rest, rfl, step_of_host hs ▸ h⟩)
    | wait =>
      rw [step_of_wait hs] at h
      exact Or.inr (Or.inr ⟨_, _, (Host.Outcome.next.inj h).symm⟩)

/-- A turn of the engine that is no idle one: the fault of an illegal word, or the decoded command. -/
theorem engineTurn_cases {s t : State} (h : engineTurn s = .next t) :
    (s.status.busy = false ∧ t = s) ∨
    (s.status.busy = true ∧ t = s.raise .illCmd) ∨
    (∃ i, s.status.busy = true ∧ decode s.cur = .ok i ∧ exec i s = .next t) := by
  cases hb : s.status.busy with
  | false =>
    simp only [engineTurn, hb, Bool.false_eq_true, if_false] at h
    exact Or.inl ⟨rfl, (Host.Outcome.next.inj h).symm⟩
  | true =>
    simp only [engineTurn, hb, if_true] at h
    cases hd : decode s.cur with
    | error e =>
      simp only [execute, hd] at h
      exact Or.inr (Or.inl ⟨rfl, (Host.Outcome.next.inj h).symm⟩)
    | ok i =>
      simp only [execute, hd] at h
      exact Or.inr (Or.inr ⟨i, rfl, rfl, h⟩)

/-! ## What a register write leaves alone -/

section WriteReg
variable (s : State) (v : Word)

/-- A write to `CMD`, by the acceptance test (`10_state.md` R32). -/
theorem State.writeCmd_cases :
    (s.status.busy = false ∧ s.status.err = false ∧ s.writeCmd v = s.accept v) ∨
      ((s.status.busy = true ∨ s.status.err = true) ∧ s.writeCmd v = s.dropWrite) := by
  cases hb : s.status.busy <;> cases he : s.status.err <;> simp [State.writeCmd, Status.accepts, hb, he]

/-- A write to an operand register (`10_state.md` R25). -/
theorem State.writeOperand_cases (r : OpReg) :
    (s.status.busy = false ∧ s.writeOperand r v = { s with x := s.x.set r v }) ∨
      (s.status.busy = true ∧ s.writeOperand r v = s.dropWrite) := by
  cases hb : s.status.busy <;> simp [State.writeOperand, hb]

/-- Everything a register write can do: nothing, or what the writes of `CTRL`, `STATUS`, `CMD` and the operand registers do. -/
theorem State.writeReg_cases (r : Reg) :
    s.writeReg r v = s ∨ s.writeReg r v = { s with ien := v.getLsbD 0 } ∨ s.writeReg r v = s.writeStatus v ∨
    (s.status.busy = false ∧ s.status.err = false ∧ s.writeReg r v = s.accept v) ∨ s.writeReg r v = s.dropWrite ∨
    (∃ q, r = .operand q ∧ s.status.busy = false ∧ s.writeReg r v = { s with x := s.x.set q v }) := by
  cases r with
  | ctrl => exact Or.inr (Or.inl rfl)
  | status => exact Or.inr (Or.inr (Or.inl rfl))
  | cmd =>
    rcases s.writeCmd_cases v with ⟨hb, he, e⟩ | ⟨_, e⟩
    · exact Or.inr (Or.inr (Or.inr (Or.inl ⟨hb, he, e⟩)))
    · exact Or.inr (Or.inr (Or.inr (Or.inr (Or.inl e))))
  | operand q =>
    rcases s.writeOperand_cases v q with ⟨hb, e⟩ | ⟨_, e⟩
    · exact Or.inr (Or.inr (Or.inr (Or.inr (Or.inr ⟨q, rfl, hb, e⟩))))
    · exact Or.inr (Or.inr (Or.inr (Or.inr (Or.inl e))))
  | id | errCode | errInfo | res | memSz | reserved => exact Or.inl rfl

@[simp] theorem State.writeReg_cfg (r : Reg) : (s.writeReg r v).cfg = s.cfg := by
  rcases s.writeReg_cases v r with e | e | e | ⟨_, _, e⟩ | e | ⟨_, _, _, e⟩ <;> rw [e] <;> rfl

@[simp] theorem State.writeReg_res (r : Reg) : (s.writeReg r v).res = s.res := by
  rcases s.writeReg_cases v r with e | e | e | ⟨_, _, e⟩ | e | ⟨_, _, _, e⟩ <;> rw [e] <;> rfl

end WriteReg

end Sys2Proof.Machine
end

section
/-! PROOFS. The invariant `State.inv`: what each of its parts is kept by, and that every step keeps it. -/

namespace Sys2Proof.Machine

open Sys2Proof.Spec

/-! ## MEM in canonical form and below a bound -/

/-- MEM is in canonical form and lists no address from `size` on (`10_state.md` R37). -/
def Memory.Sound (size : Nat) (m : Memory) : Prop := m.wf = true ∧ ∀ c ∈ m, c.1 < size

theorem Memory.Sound.nil (size : Nat) : Memory.Sound size [] := ⟨rfl, by simp⟩

theorem Memory.Sound.store {size : Nat} {m : Memory} (h : m.Sound size) {a : Nat} (b : Byte) (ha : a < size) :
    (m.store a b).Sound size :=
  ⟨Memory.wf_store a b h.1, Memory.store_below b h.2 ha⟩

theorem Memory.Sound.storeBytes {size : Nat} {m : Memory} (h : m.Sound size) (a : Nat) (bs : List Byte)
    (ha : a + bs.length ≤ size) : (m.storeBytes a bs).Sound size :=
  Memory.storeBytes_keeps 0 size (fun _ _ b hm _ hlt => hm.store b hlt) bs m a h (Nat.zero_le a) ha

theorem Memory.Sound.storeImage {size : Nat} {m : Memory} (h : m.Sound size) (base stride w b : Nat)
    (pix : Nat → Nat → Nat) (rows : Nat) (hfit : base + rows * stride ≤ size) (hrow : w * b ≤ stride) :
    (m.storeImage base stride w b pix rows).Sound size :=
  Memory.storeImage_keeps 0 size (fun _ _ b hm _ hlt => hm.store b hlt) m base stride w b pix rows h (Nat.zero_le base)
    hfit hrow

/-- The plane a `FILLP` writes lies inside `PLX`. -/
theorem plane_inside_plx (x : OpRegs) {plane : Nat} (h : plane < x.npl.toNat) :
    x.plb.toNat + plane * x.planeSize + x.planeSize ≤ x.plx.base + x.plx.len := by
  have hlen : (plane + 1) * x.planeSize ≤ x.planeSize * max x.npl.toNat 8 := by
    rw [Nat.mul_comm]
    exact Nat.mul_le_mul_left _ (by omega)
  rw [Nat.add_mul, Nat.one_mul] at hlen
  simp only [OpRegs.plx]
  omega

/-- A command whose checks pass writes inside MEM (`20_memory.md` R70) and keeps its canonical form. -/
theorem familyMem_sound {f : Family} {s : State} (hpass : firstFault (familyChecks f s) = none)
    (hm : s.mem.Sound s.cfg.memSize) : (familyMem f s).Sound s.cfg.memSize := by
  have image (base b : Nat) (pix : Nat → Nat → Nat)
      (hfit : base + s.x.w.toNat * s.x.h.toNat * b ≤ s.cfg.memSize) :
      (s.mem.storeImage base (s.x.w.toNat * b) s.x.w.toNat b pix s.x.h.toNat).Sound s.cfg.memSize := by
    have harea : s.x.h.toNat * (s.x.w.toNat * b) = s.x.w.toNat * s.x.h.toNat * b := by ring
    exact hm.storeImage _ _ _ _ _ _ (by omega) (Nat.le_refl _)
  cases f with
  | plclr => exact hm.storeBytes _ _ (by simpa using plclr_fits hpass)
  | fillp plane set =>
    obtain ⟨hplane, hfits⟩ := fillp_pass hpass
    exact hm.storeBytes _ _ (by simpa using Nat.le_trans (plane_inside_plx s.x hplane) hfits)
  | deint =>
    by_cases hn : s.x.npl.toNat = 0
    · simpa only [familyMem, if_pos hn] using hm
    · simp only [familyMem, if_neg hn]
      exact hm.storeImage _ _ _ _ _ _ (deint_fits hpass hn) (Nat.le_add_right _ _)
  | solid b => exact image _ _ _ (solid_fits hpass)
  | expand b => exact image _ _ _ (expand_pass hpass).2
  | badWidth => exact hm
  | ham6 =>
    have hfits := hamChecks_fits (ham6_pass hpass).1
    simp only [OpRegs.dx] at hfits
    exact hm.storeBytes _ _ (by rw [State.hamOutput_length]; omega)
  | ham8 =>
    have hfits := hamChecks_fits hpass
    simp only [OpRegs.dx] at hfits
    exact hm.storeBytes _ _ (by rw [State.hamOutput_length]; omega)
  | rgb2pal kernel =>
    obtain ⟨_, hfits⟩ := rgb2pal_pass hpass
    cases kernel with
    | none =>
      have hsound := image s.x.dsb.toNat 1 (fun col row => s.paletteIndex (s.sourcePixel col row)) hfits
      rwa [Nat.mul_one] at hsound
    | some k =>
      simp only [OpRegs.dx, Nat.mul_one] at hfits
      exact hm.storeBytes _ _ (by rw [State.ditherOutput_length, Nat.mul_comm]; exact hfits)
  | nearest => exact hm

/-- `RES` stays an index below 256 (`43_nearest_quantize.md` R184). -/
theorem familyRes_lt {f : Family} {s : State} (hpass : firstFault (familyChecks f s) = none) (hr : s.res.toNat < 256) :
    (familyRes f s).toNat < 256 := by
  by_cases hf : f = .nearest
  · subst hf
    obtain ⟨hpal, hrange⟩ := nearest_pass hpass
    obtain ⟨_, hlt, _⟩ := nearest_spec s.pal (queryColour s.x.color) hrange
    rw [familyRes_nearest, BitVec.toNat_ofNat]
    omega
  · rwa [familyRes_other hf]

/-! ## `STATUS` and the fault record -/

/-- The invariants of `STATUS` (`10_state.md` R29) and of the fault record (`60_exceptions.md` R233, R234) as one proposition
on what they speak of. -/
structure RecordOk (f : Status) (code : Byte) (info : Word) : Prop where
  busy_alone : f.busy = true → f.done = false ∧ f.err = false
  not_both : f.done = true → f.err = false
  clean : f.err = false → code = 0 ∧ info = 0
  code_le : code.toNat ≤ 12
  code_ne_zero : f.err = true → code ≠ 0
  detail : info = 0 ∨ code = 12

theorem recordOk_iff (s : State) :
    RecordOk s.status s.errCode s.errInfo ↔ statusInvariant s = true ∧ faultRecordInvariant s = true := by
  have parts : RecordOk s.status s.errCode s.errInfo ↔
      (s.status.busy = true → s.status.done = false ∧ s.status.err = false) ∧
      (s.status.done = true → s.status.err = false) ∧
      (s.status.err = false → s.errCode = 0 ∧ s.errInfo = 0) ∧ s.errCode.toNat ≤ 12 ∧
      (s.status.err = true → s.errCode ≠ 0) ∧ (s.errInfo = 0 ∨ s.errCode = 12) :=
    ⟨fun ⟨h1, h2, h3, h4, h5, h6⟩ => ⟨h1, h2, h3, h4, h5, h6⟩, fun ⟨h1, h2, h3, h4, h5, h6⟩ => ⟨h1, h2, h3, h4, h5, h6⟩⟩
  rw [parts]
  cases hb : s.status.busy <;> cases hd : s.status.done <;> cases he : s.status.err <;>
    simp [statusInvariant, faultRecordInvariant, hb, hd, he, and_assoc]

theorem RecordOk.clear : RecordOk Status.clear 0 0 :=
  ⟨by simp, by simp, by simp, by simp, by simp, Or.inl rfl⟩

theorem RecordOk.faulted {f : Status} {code : Byte} {info : Word} (h : RecordOk f code info) (hb : f.busy = true)
    (p : PdiFault) : RecordOk f.faulted p.code p.info :=
  ⟨by simp, by simp [h.busy_alone hb], by simp, p.code_le, fun _ => p.code_ne_zero, p.info_or_code⟩

theorem RecordOk.completed {f : Status} {code : Byte} {info : Word} (h : RecordOk f code info) (hb : f.busy = true) :
    RecordOk f.completed code info :=
  ⟨by simp, by simp [h.busy_alone hb], h.clean, h.code_le, h.code_ne_zero, h.detail⟩

theorem RecordOk.accepted {f : Status} {code : Byte} {info : Word} (h : RecordOk f code info) (he : f.err = false) :
    RecordOk f.accepted code info :=
  ⟨by simp [he], by simp, h.clean, h.code_le, h.code_ne_zero, h.detail⟩

theorem RecordOk.overrun {f : Status} {code : Byte} {info : Word} (h : RecordOk f code info) :
    RecordOk f.overrun code info :=
  ⟨h.busy_alone, h.not_both, h.clean, h.code_le, h.code_ne_zero, h.detail⟩

/-- Clearing ERR clears the fault record with it (`10_state.md` R31). -/
theorem RecordOk.writeOneToClear {f : Status} {code : Byte} {info : Word} (h : RecordOk f code info) (v : Word) :
    RecordOk (f.writeOneToClear v) (if v.getLsbD 2 then 0 else code) (if v.getLsbD 2 then 0 else info) where
  busy_alone hb := by simp [h.busy_alone hb]
  not_both hd := by
    simp only [Status.writeOneToClear_done, Bool.and_eq_true] at hd
    simp [h.not_both hd.1]
  clean he := by
    cases hv : v.getLsbD 2 with
    | true => simp
    | false =>
      rw [Status.writeOneToClear_err, hv, Bool.not_false, Bool.and_true] at he
      simpa using h.clean he
  code_le := by split <;> simp [h.code_le]
  code_ne_zero he := by
    simp only [Status.writeOneToClear_err, Bool.and_eq_true, Bool.not_eq_true'] at he
    obtain ⟨herr, hv⟩ := he
    rw [hv]
    exact h.code_ne_zero herr
  detail := by
    split
    · exact Or.inl rfl
    · exact h.detail

/-! ## The invariant -/

/-- The invariant by its parts. -/
structure State.Inv (s : State) : Prop where
  legal : s.cfg.legal = true
  mem : s.mem.Sound s.cfg.memSize
  record : RecordOk s.status s.errCode s.errInfo
  res : s.res.toNat < 256

theorem State.inv_iff (s : State) : s.inv = true ↔ s.Inv := by
  have hmem : s.mem.Sound s.cfg.memSize ↔ s.mem.wf = true ∧ memInside s = true := by simp [Memory.Sound, memInside]
  simp only [State.inv, Bool.and_eq_true, decide_eq_true_eq]
  constructor
  · rintro ⟨⟨⟨⟨⟨hl, hw⟩, hi⟩, hs⟩, hf⟩, hr⟩
    exact ⟨hl, hmem.2 ⟨hw, hi⟩, (recordOk_iff s).2 ⟨hs, hf⟩, hr⟩
  · rintro ⟨hl, hm, hrec, hr⟩
    obtain ⟨hw, hi⟩ := hmem.1 hm
    obtain ⟨hs, hf⟩ := (recordOk_iff s).1 hrec
    exact ⟨⟨⟨⟨⟨hl, hw⟩, hi⟩, hs⟩, hf⟩, hr⟩

theorem State.resetOf_inv {cfg : Params} (h : cfg.legal = true) (epoch : Nat) : (State.resetOf cfg epoch).Inv :=
  ⟨h, Memory.Sound.nil _, RecordOk.clear, by simp [State.resetOf]⟩

theorem State.Inv.raise {s : State} (h : s.Inv) (hb : s.status.busy = true) (f : PdiFault) : (s.raise f).Inv :=
  ⟨h.legal, h.mem, h.record.faulted hb f, h.res⟩

/-- The invariant does not speak of the script and the replies. -/
theorem State.Inv.withScript {s : State} (h : s.Inv) (script : List Turn) (replies : List Reply) :
    { s with script := script, replies := replies }.Inv :=
  ⟨h.legal, h.mem, h.record, h.res⟩

/-- A command in flight keeps the invariant. -/
theorem exec_keeps_inv {i : Instr} {s t : State} (h : s.Inv) (hb : s.status.busy = true) (he : exec i s = .next t) :
    t.Inv := by
  rcases exec_outcome i s with ⟨f, _, e⟩ | ⟨hpass, e⟩ <;> obtain rfl := Host.Outcome.next.inj (e.symm.trans he)
  · exact h.raise hb f
  · exact ⟨h.legal, familyMem_sound hpass h.mem, h.record.completed hb, familyRes_lt hpass h.res⟩

theorem engineTurn_keeps_inv {s t : State} (h : s.Inv) (he : engineTurn s = .next t) : t.Inv := by
  rcases engineTurn_cases he with ⟨_, rfl⟩ | ⟨hb, rfl⟩ | ⟨i, hb, _, hexec⟩
  · exact h
  · exact h.raise hb _
  · exact exec_keeps_inv h hb hexec

theorem State.Inv.writeReg {s : State} (h : s.Inv) (r : Reg) (v : Word) : (s.writeReg r v).Inv := by
  rcases s.writeReg_cases v r with e | e | e | ⟨_, herr, e⟩ | e | ⟨_, _, _, e⟩ <;> rw [e]
  · exact h
  · exact ⟨h.legal, h.mem, h.record, h.res⟩
  · exact ⟨h.legal, h.mem, h.record.writeOneToClear v, h.res⟩
  · exact ⟨h.legal, h.mem, h.record.accepted herr, h.res⟩
  · exact ⟨h.legal, h.mem, h.record.overrun, h.res⟩
  · exact ⟨h.legal, h.mem, h.record, h.res⟩

theorem hostMove_keeps_inv {m : HostMove} {s t : State} (h : s.Inv) (he : hostMove m s = .next t) : t.Inv := by
  rcases hostMove_cases he with ⟨_, _, _, _, rfl⟩ | ⟨_, v, r, _, _, rfl⟩ | ⟨_, _, _, _, rfl⟩ | ⟨a, b, _, _, ha, rfl⟩ | ⟨_, rfl⟩
  · exact ⟨h.legal, h.mem, h.record, h.res⟩
  · exact h.writeReg r v
  · exact ⟨h.legal, h.mem, h.record, h.res⟩
  · exact ⟨h.legal, h.mem.store b ha, h.record, h.res⟩
  · exact (State.resetOf_inv h.legal (s.epoch + 1)).withScript _ _

theorem step_keeps_inv {s t : State} (h : s.Inv) (he : step s = .next t) : t.Inv := by
  rcases step_cases he with ⟨rest, _, hturn⟩ | ⟨m, rest, _, hmove⟩ | ⟨script, replies, rfl⟩
  · exact engineTurn_keeps_inv (h.withScript _ _) hturn
  · exact hostMove_keeps_inv (h.withScript _ _) hmove
  · exact h.withScript _ _

/-- Settles O9: each turn of `step_cases` keeps each part of the invariant. -/
theorem invariantKeptByEveryStep : Obligations.InvariantKeptByEveryStep := by
  intro s t hs hstep
  rw [State.inv_iff] at hs ⊢
  exact step_keeps_inv hs hstep

/-- Settles O8. -/
theorem invariantHoldsAtReset : Obligations.InvariantHoldsAtReset := by
  have hreset {p : Params} (hp : p.legal = true) (n : Nat) : (State.resetOf p n).inv = true :=
    (State.inv_iff _).2 (State.resetOf_inv hp n)
  exact ⟨hreset (by decide +kernel) 0, fun p n hp => hreset hp n⟩

end Sys2Proof.Machine
end

section
/-! PROOFS. The host's moves as steps: the register space (`10_state.md` R22 to R35), MEM (R37) and `Reset` (R39). -/

namespace Sys2Proof.Machine

open Sys2Proof.Spec

/-! ## The register space -/

/-- The four flags as the word a read of `STATUS` returns (`10_state.md` R29). -/
theorem statusWord_eq (f : Status) :
    statusWord f = BitVec.ofNat 32 (f.busy.toNat + 2 * f.done.toNat + 4 * f.err.toNat + 8 * f.ovr.toNat) := by
  obtain ⟨busy, done, err, ovr⟩ := f
  cases busy <;> cases done <;> cases err <;> cases ovr <;> rfl

theorem ctrlWord_eq (ien : Bool) : ctrlWord ien = if ien then 1 else 0 := by cases ien <;> rfl

/-- The spec's table of reads is what stands at each offset (`10_state.md` R22, R24). -/
theorem regTable_eq (s : State) (off : Nat) : regTable s off = (regAt off).map s.regValue := by
  by_cases h : off % 4 = 0 ∧ off ≤ 0xFC
  · obtain ⟨k, rfl⟩ : ∃ k, off = 4 * k := ⟨off / 4, by omega⟩
    have hk : k < 64 := by omega
    rw [regAt_four hk, Option.map_some]
    by_cases hlow : k < 29
    · interval_cases k <;>
        simp [regTable, regOfIndex, opRegAt, State.regValue, OpRegs.get, statusWord_eq, ctrlWord_eq, Config.idWord]
    · have hres : regOfIndex k = .reserved := by interval_cases k <;> rfl
      have hzero : regTable s (4 * k) = some 0 := by
        unfold regTable
        simp only [show ∀ n, n ≤ 0x70 → ¬4 * k = n from by omega, Nat.reduceLeDiff, if_false, if_pos h]
      rw [hzero, hres]
      rfl
  · have hnone : regTable s off = none := by
      unfold regTable
      simp only [show ∀ n, n % 4 = 0 → n ≤ 0xFC → ¬off = n from by omega, Nat.reduceMod, Nat.reduceLeDiff, if_false, if_neg h]
    rw [hnone, (regAt_eq_none off).2 h]
    rfl

theorem regAt_of_reservedOffset {off : Nat} (h : ReservedOffset off) : regAt off = some .reserved := by
  obtain ⟨hfour, hrange⟩ := h
  obtain ⟨k, rfl⟩ : ∃ k, off = 4 * k := ⟨off / 4, by omega⟩
  have hk : k < 64 := by omega
  rw [regAt_four hk]
  have hlow : 8 ≤ k := by omega
  interval_cases k <;> first | rfl | omega

section Steps
variable {s : State} {off : Nat} {rest : List Turn}

/-! ## Register reads -/

theorem step_regRead {r : Reg} (h : s.script = .host (.regRead off) :: rest) (hr : regAt off = some r) :
    step s = .next { s with script := rest, replies := s.replies ++ [.reg (s.regValue r)] } := by
  rw [step_of_host h]
  simp only [hostMove, hostRegRead, hr]
  cases r <;> rfl

theorem step_regRead_none (h : s.script = .host (.regRead off) :: rest) (hr : regAt off = none) :
    step s = .refused .noSuchRegister := by
  rw [step_of_host h]
  simp only [hostMove, hostRegRead, hr]

/-! ## Register writes -/

variable {v : Word}

theorem step_regWrite {r : Reg} (h : s.script = .host (.regWrite off v) :: rest) (hr : regAt off = some r) :
    step s = .next ({ s with script := rest }.writeReg r v) := by
  rw [step_of_host h]
  simp only [hostMove, hostRegWrite, hr]

theorem step_regWrite_none (h : s.script = .host (.regWrite off v) :: rest) (hr : regAt off = none) :
    step s = .refused .noSuchRegister := by
  rw [step_of_host h]
  simp only [hostMove, hostRegWrite, hr]

/-! ## MEM -/

variable {a : Nat} {b : Byte}

theorem step_memRead (h : s.script = .host (.memRead a) :: rest) (hb : s.status.busy = false) (ha : a < s.cfg.memSize) :
    step s = .next { s with script := rest, replies := s.replies ++ [.mem (s.readByte a)] } := by
  rw [step_of_host h]
  simp only [hostMove, hostMemAccess, hb, Bool.false_eq_true, if_false, if_neg (Nat.not_le.2 ha)]
  rfl

theorem step_memWrite (h : s.script = .host (.memWrite a b) :: rest) (hb : s.status.busy = false)
    (ha : a < s.cfg.memSize) : step s = .next { s with script := rest, mem := s.mem.store a b } := by
  rw [step_of_host h]
  simp only [hostMove, hostMemAccess, hb, Bool.false_eq_true, if_false, if_neg (Nat.not_le.2 ha)]
  rfl

theorem hostMemAccess_outside (hb : s.status.busy = false) (ha : s.cfg.memSize ≤ a) (done : State) :
    hostMemAccess s a done = .fault .noSuchAddress := by
  simp only [hostMemAccess, hb, Bool.false_eq_true, if_false, if_pos ha]

end Steps

/-! ## `STATUS` writes that clear nothing -/

theorem clear_bits_of_low_nibble {v : Word} (h : v.toNat % 16 / 2 = 0) :
    v.getLsbD 1 = false ∧ v.getLsbD 2 = false ∧ v.getLsbD 3 = false := by
  simp only [← BitVec.testBit_toNat, Nat.testBit_eq_decide_div_mod_eq, decide_eq_false_iff_not]
  omega

theorem State.writeStatus_of_clear_bits (s : State) {v : Word}
    (h : v.getLsbD 1 = false ∧ v.getLsbD 2 = false ∧ v.getLsbD 3 = false) : s.writeStatus v = s := by
  obtain ⟨h1, h2, h3⟩ := h
  have hstatus : s.status.writeOneToClear v = s.status := by
    simp only [Status.writeOneToClear, h1, h2, h3, Bool.not_false, Bool.and_true]
  simp only [State.writeStatus, hstatus, h2, Bool.false_eq_true, if_false]

/-! ## The statements -/

/-- Settles O36: the table of reads is `regAt` followed by `regValue`. -/
theorem registerReadsFollowTheTable : Obligations.RegisterReadsFollowTheTable := by
  intro s off v rest hs hv
  rw [regTable_eq, Option.map_eq_some_iff] at hv
  obtain ⟨r, hr, rfl⟩ := hv
  exact step_regRead hs hr

/-- A write to a reserved offset or a read-only register changes nothing and sets no flag (`10_state.md` R22, R23). -/
theorem step_regWrite_ignored {s : State} {off : Nat} {v : Word} {rest : List Turn}
    (h : ReservedOffset off ∨ ReadOnlyOffset off) (hs : s.script = .host (.regWrite off v) :: rest) :
    step s = .next { s with script := rest } := by
  rcases h with hres | rfl | rfl | rfl | rfl | rfl
  · exact step_regWrite hs (regAt_of_reservedOffset hres)
  all_goals exact step_regWrite hs rfl

/-- A read changes the replies only (`10_state.md` R23). -/
theorem step_regRead_frame {s t : State} {off : Nat} {rest : List Turn} (hs : s.script = .host (.regRead off) :: rest)
    (ht : step s = .next t) : t = { s with script := rest, replies := t.replies } := by
  cases hr : regAt off with
  | none => cases (step_regRead_none hs hr).symm.trans ht
  | some r =>
    obtain rfl := Host.Outcome.next.inj ((step_regRead hs hr).symm.trans ht)
    rfl

/-- The reserved bits of `CTRL` and `STATUS` read 0 (`10_state.md` R23). -/
theorem reserved_bits_read_zero (s : State) :
    (regTable s 0x04).map (fun c => c.toNat / 2) = some 0 ∧ (regTable s 0x08).map (fun c => c.toNat / 16) = some 0 := by
  constructor
  · show some ((if s.ien then (1 : Word) else 0).toNat / 2) = some 0
    cases s.ien <;> rfl
  · show some ((BitVec.ofNat 32 _).toNat / 16) = some 0
    have h1 := s.status.busy.toNat_le
    have h2 := s.status.done.toNat_le
    have h3 := s.status.err.toNat_le
    have h4 := s.status.ovr.toNat_le
    rw [BitVec.toNat_ofNat, Option.some.injEq]
    omega

/-- Settles O37. -/
theorem reservedAndReadOnlyRegisters : Obligations.ReservedAndReadOnlyRegisters := by
  intro s off v rest
  refine ⟨fun hres hs => step_regRead hs (regAt_of_reservedOffset hres), step_regWrite_ignored,
    reserved_bits_read_zero s, ?ctrl, ?status, fun hoff => ?refused, fun hs t => step_regRead_frame hs⟩
  case ctrl =>
    rintro rfl hv hs
    rw [step_regWrite hs rfl]
    exact congrArg (fun b => Host.Outcome.next { s with script := rest, ien := b }) hv
  case status =>
    rintro rfl hv hs
    rw [step_regWrite hs rfl]
    exact congrArg Host.Outcome.next (State.writeStatus_of_clear_bits _ (clear_bits_of_low_nibble hv))
  case refused =>
    have hnone : regAt off = none := (regAt_eq_none off).2 (by omega)
    exact ⟨fun hs => step_regRead_none hs hnone, fun hs => step_regWrite_none hs hnone⟩

/-- Settles O38: the two branches of `State.writeOperand`, and `OpRegs.get` after `OpRegs.set`. -/
theorem operandRegisterAccess : Obligations.OperandRegisterAccess := by
  intro s r v rest
  refine ⟨fun hs hb => ?stored, fun hs hb => ?dropped, fun hs => step_regRead hs (regAt_operand r)⟩
  case stored =>
    refine ⟨{ s with script := rest, x := s.x.set r v }, ?_, rfl, OpRegs.get_set_same _ _ _,
      fun r' hr' => OpRegs.get_set_other _ _ hr'⟩
    rw [step_regWrite hs (regAt_operand r)]
    rcases State.writeOperand_cases { s with script := rest } v r with ⟨_, e⟩ | ⟨hbusy, _⟩
    · exact congrArg _ e
    · cases hb.symm.trans hbusy
  case dropped =>
    rw [step_regWrite hs (regAt_operand r)]
    rcases State.writeOperand_cases { s with script := rest } v r with ⟨hidle, _⟩ | ⟨_, e⟩
    · cases hb.symm.trans hidle
    · exact congrArg _ e

/-- Settles O39: the two branches of `State.writeCmd`. -/
theorem cmdWriteAcceptsOrDrops : Obligations.CmdWriteAcceptsOrDrops := by
  refine ⟨rfl, fun s v rest => ⟨fun hs hb he => ?accepted, fun hs hbe => ?dropped, fun hs => step_regRead hs rfl⟩⟩
  case accepted =>
    rw [step_regWrite hs rfl]
    rcases State.writeCmd_cases { s with script := rest } v with ⟨_, _, e⟩ | ⟨hbusy | herr, _⟩
    · exact congrArg _ e
    · cases hb.symm.trans hbusy
    · cases he.symm.trans herr
  case dropped =>
    rw [step_regWrite hs rfl]
    rcases State.writeCmd_cases { s with script := rest } v with ⟨hb, he, _⟩ | ⟨_, e⟩
    · rcases hbe with hbusy | herr
      · cases hb.symm.trans hbusy
      · cases he.symm.trans herr
    · exact congrArg _ e

/-- Settles O40. -/
theorem statusWriteOneToClear : Obligations.StatusWriteOneToClear := by
  intro s v rest hs
  refine ⟨State.writeStatus { s with script := rest } v, step_regWrite hs rfl, rfl, rfl, ?_, ?_, ?_, fun hv => ?_,
    fun hv => ?_⟩
  · simp only [State.writeStatus_status, Status.writeOneToClear_done, Bool.and_eq_true, Bool.not_eq_true']
  · simp only [State.writeStatus_status, Status.writeOneToClear_err, Bool.and_eq_true, Bool.not_eq_true']
  · simp only [State.writeStatus_status, Status.writeOneToClear_ovr, Bool.and_eq_true, Bool.not_eq_true']
  · rw [State.writeStatus_errCode, State.writeStatus_errInfo, if_pos hv, if_pos hv]
    exact ⟨rfl, rfl⟩
  · have hv' : ¬v.getLsbD 2 = true := by rw [hv]; decide
    rw [State.writeStatus_errCode, State.writeStatus_errInfo, if_neg hv', if_neg hv']
    exact ⟨rfl, rfl⟩

/-- Settles O41. -/
theorem ctrlHoldsTheInterruptEnable : Obligations.CtrlHoldsTheInterruptEnable := by
  refine ⟨rfl, fun s v rest => ⟨fun hs => step_regWrite hs rfl, fun hs => ?_, fun hi => ?_, fun hi => ?_⟩⟩
  · rw [← ctrlWord_eq]
    exact step_regRead hs rfl
  · rw [irq, hi, Bool.false_and]
  · rw [irq, hi, Bool.true_and]

/-- Settles O43: read after write for one byte of MEM. -/
theorem hostMemoryWhileIdle : Obligations.HostMemoryWhileIdle := by
  intro s a b rest hb ha
  refine ⟨fun hs => ⟨_, step_memWrite hs hb ha, rfl, ?_, fun a' ha' => ?_⟩, fun hs => step_memRead hs hb ha⟩
  · exact congrArg (Option.getD · _) (Memory.lookup_store_same s.mem a b)
  · exact congrArg (Option.getD · _) (Memory.lookup_store_other s.mem b ha')

/-- Settles O45. -/
theorem noHostMemoryOutsideMem : Obligations.NoHostMemoryOutsideMem := by
  rintro s m a rest hb ha hs (rfl | ⟨b, rfl⟩) <;> rw [step_of_host hs] <;> exact hostMemAccess_outside hb ha _

/-- Settles O46. -/
theorem resetInEveryState : Obligations.ResetInEveryState := by
  intro s rest hs
  exact ⟨State.doReset { s with script := rest }, step_of_host hs, OpRegs.get_zero, rfl, rfl, rfl, rfl, rfl, rfl, rfl, rfl,
    rfl, rfl, fun _ => rfl⟩

end Sys2Proof.Machine
end

section
/-! PROOFS. What a step can change: `RES`, the operand registers, the parameters, and the end of a command in flight. -/

namespace Sys2Proof.Machine

open Sys2Proof.Spec

/-! ## The engine's turn -/

theorem wellFormed_of_decodeN {c : Word} {i j : Instr} (hj : j.wellFormed = true) (h : decodeN c j = .ok i) :
    i.wellFormed = true := by
  unfold decodeN at h
  split at h <;> cases h
  exact hj

/-- `PLANE` has five bits (`30_encoding.md` R94). -/
theorem wellFormed_of_decodeP {c : Word} {i : Instr} (h : decodeP c = .ok i) : i.wellFormed = true := by
  unfold decodeP at h
  split at h <;> cases h
  exact decide_eq_true (Nat.mod_lt _ (by decide))

theorem wellFormed_of_decodeZ {c : Word} {i b h w z : Instr} (hb : b.wellFormed = true) (hh : h.wellFormed = true)
    (hw : w.wellFormed = true) (hz : z.wellFormed = true) (hd : decodeZ c b h w z = .ok i) : i.wellFormed = true := by
  unfold decodeZ at hd
  split at hd <;> cases hd
  split <;> assumption

theorem wellFormed_of_decodeK {c : Word} {i : Instr} (h : decodeK c = .ok i) : i.wellFormed = true := by
  unfold decodeK at h
  split at h <;> cases h
  unfold kernelInstr
  split <;> rfl

/-- A decoded command is well formed: the only field that could be too large is `PLANE`. -/
theorem wellFormed_of_decode {c : Word} {i : Instr} (h : decode c = .ok i) : i.wellFormed = true := by
  unfold decode at h
  split at h
  · exact wellFormed_of_decodeN rfl h
  · exact wellFormed_of_decodeP h
  · exact wellFormed_of_decodeN rfl h
  · exact wellFormed_of_decodeZ rfl rfl rfl rfl h
  · exact wellFormed_of_decodeZ rfl rfl rfl rfl h
  · exact wellFormed_of_decodeN rfl h
  · exact wellFormed_of_decodeN rfl h
  · exact wellFormed_of_decodeK h
  · exact wellFormed_of_decodeN rfl h
  · cases h

theorem engineTurn_of_busy {s : State} {i : Instr} (hb : s.status.busy = true) (hd : decode s.cur = .ok i) :
    engineTurn s = exec i s := by
  simp only [engineTurn, hb, if_true, execute, hd]

theorem engineTurn_of_idle {s : State} (hb : s.status.busy = false) : engineTurn s = .next s := by
  simp only [engineTurn, hb, Bool.false_eq_true, if_false]

/-- Settles O4. -/
theorem stepRunsTheDecodedCommand : Obligations.StepRunsTheDecodedCommand := by
  intro s i hb hd
  exact ⟨wellFormed_of_decode hd, fun hs => (step_of_nil hs).trans (engineTurn_of_busy hb hd),
    fun rest hs => (step_of_engine hs).trans (engineTurn_of_busy hb hd)⟩

/-- Settles O5. -/
theorem idleEngineKeepsAllState : Obligations.IdleEngineKeepsAllState := by
  intro s hb
  exact ⟨fun hs => (step_of_nil hs).trans (engineTurn_of_idle hb),
    fun rest hs => (step_of_engine hs).trans (engineTurn_of_idle hb)⟩

/-- Settles O52: an illegal word faults, and `exec_frame` says how a decoded command leaves the flags. -/
theorem commandInFlightEnds : Obligations.CommandInFlightEnds := by
  intro s hb hs
  cases hd : decode s.cur with
  | error e =>
    refine ⟨s.raise .illCmd, ?_, rfl, hs, fun hdone _ => by simp [hdone]⟩
    rw [step_of_nil hs]
    simp only [engineTurn, hb, if_true, execute, hd]
  | ok i =>
    obtain ⟨u, hu⟩ : ∃ u, exec i s = .next u := by
      rcases exec_outcome i s with ⟨_, _, e⟩ | ⟨_, e⟩ <;> exact ⟨_, e⟩
    obtain ⟨_, _, _, _, _, hscript, _, hbusy, _, _, hflags⟩ := exec_frame hu
    exact ⟨u, by rw [step_of_nil hs, engineTurn_of_busy hb hd, hu], hbusy, hscript.trans hs, hflags⟩

/-! ## `RES` -/

/-- The model's distance of two colours is the spec's, on integers (`43_nearest_quantize.md` R181). -/
theorem colourDist_cast (c p : Colour) : (colourDist c p : Int) = distance c p := by
  have hc := c.red.isLt
  have hp := p.red.isLt
  have hmean : (c.red.toNat + p.red.toNat) / 2 ≤ 767 := by omega
  simp only [colourDist, sqDiff, distance]
  push_cast [Nat.cast_sub hmean, Int.natCast_natAbs, sq_abs]
  ring

/-- What `nearest` returns is the spec's nearest index (`43_nearest_quantize.md` R182). -/
theorem isNearest_nearest (s : State) (c : Colour) {first num : Nat} (h : first < num) :
    IsNearest s c first num (nearest s.pal c first num) := by
  obtain ⟨hfirst, hnum, hleast, hlowest⟩ := nearest_spec s.pal c h
  refine ⟨hfirst, hnum, fun j h1 h2 => ?_, fun j h1 h2 => ?_⟩
  · rw [← colourDist_cast, ← colourDist_cast]
    exact Int.ofNat_le.2 (hleast j h1 h2)
  · rw [← colourDist_cast, ← colourDist_cast]
    exact Int.ofNat_lt.2 (hlowest j h1 h2)

/-- A command that changes `RES` is a `NEAREST` that completes with the index found. -/
theorem exec_changes_res {i : Instr} {s t : State} (h : exec i s = .next t) (hr : t.res ≠ s.res) :
    i = .nearest ∧ t.status.busy = false ∧ t.status.done = true ∧
      ∃ k, t.res = BitVec.ofNat 32 k ∧ IsNearest s (queryColour s.x.color) s.x.palf.toNat s.x.paln.toNat k := by
  rcases exec_outcome i s with ⟨f, _, e⟩ | ⟨hpass, e⟩ <;> obtain rfl := Host.Outcome.next.inj (e.symm.trans h)
  · exact absurd rfl hr
  · have hf : family i = .nearest := by
      by_contra hf
      exact hr (familyRes_other hf s)
    rw [hf] at hpass
    refine ⟨family_eq_nearest hf, rfl, rfl, _, ?_, isNearest_nearest s _ (nearest_pass hpass).2⟩
    rw [hf]
    rfl

/-- Settles O42. -/
theorem resIsWrittenByNearestOnly : Obligations.ResIsWrittenByNearestOnly := by
  refine ⟨rfl, fun s t ht hr => ?_⟩
  rcases step_cases ht with ⟨rest, _, hturn⟩ | ⟨m, rest, hs, hmove⟩ | ⟨script, replies, rfl⟩
  · rcases engineTurn_cases hturn with ⟨_, rfl⟩ | ⟨_, rfl⟩ | ⟨i, hb, hd, hexec⟩
    · exact absurd rfl hr
    · exact absurd rfl hr
    · obtain ⟨rfl, hbusy, hdone, hk⟩ := exec_changes_res hexec hr
      exact Or.inl ⟨hb, hd, hbusy, hdone, hk⟩
  · rcases hostMove_cases hmove with ⟨_, _, _, _, rfl⟩ | ⟨_, _, _, _, _, rfl⟩ | ⟨_, _, _, _, rfl⟩ | ⟨_, _, _, _, _, rfl⟩ |
      ⟨rfl, rfl⟩
    · exact absurd rfl hr
    · exact absurd (State.writeReg_res _ _ _) hr
    · exact absurd rfl hr
    · exact absurd rfl hr
    · exact Or.inr ⟨rest, hs, rfl⟩
  · exact absurd rfl hr

/-! ## The operand registers -/

/-- A register write that changes an operand register is an idle write to that register. -/
theorem writeReg_changes_operand {s : State} {r : Reg} {v : Word} {q : OpReg}
    (h : (s.writeReg r v).x.get q ≠ s.x.get q) :
    r = .operand q ∧ s.status.busy = false ∧ (s.writeReg r v).x.get q = v := by
  rcases s.writeReg_cases v r with e | e | e | ⟨_, _, e⟩ | e | ⟨p, hp, hb, e⟩ <;> rw [e] at h ⊢
  · exact absurd rfl h
  · exact absurd rfl h
  · exact absurd rfl h
  · exact absurd rfl h
  · exact absurd rfl h
  · by_cases hq : q = p
    · subst hq
      exact ⟨hp, hb, OpRegs.get_set_same _ _ _⟩
    · exact absurd (OpRegs.get_set_other s.x v hq) h

/-- Settles O50. -/
theorem operandRegistersAreTheHosts : Obligations.OperandRegistersAreTheHosts := by
  intro s t r ht hr
  rcases step_cases ht with ⟨rest, _, hturn⟩ | ⟨m, rest, hs, hmove⟩ | ⟨script, replies, rfl⟩
  · exact absurd (congrArg (OpRegs.get · r) (engineTurn_frame hturn).1) hr
  · rcases hostMove_cases hmove with ⟨_, _, _, _, rfl⟩ | ⟨off, v, q, rfl, hq, rfl⟩ | ⟨_, _, _, _, rfl⟩ |
      ⟨_, _, _, _, _, rfl⟩ | ⟨rfl, rfl⟩
    · exact absurd rfl hr
    · obtain ⟨rfl, hb, hv⟩ := writeReg_changes_operand hr
      rw [regAt_home hq rfl] at hs
      exact Or.inl ⟨v, rest, hs, hb, hv⟩
    · exact absurd rfl hr
    · exact absurd rfl hr
    · exact Or.inr ⟨rest, hs, OpRegs.get_zero r⟩
  · exact absurd rfl hr

/-! ## The parameters -/

theorem step_cfg {s t : State} (h : step s = .next t) : t.cfg = s.cfg := by
  rcases step_cases h with ⟨rest, _, hturn⟩ | ⟨m, rest, _, hmove⟩ | ⟨script, replies, rfl⟩
  · obtain ⟨_, _, hcfg, _⟩ := engineTurn_frame hturn
    exact hcfg
  · rcases hostMove_cases hmove with ⟨_, _, _, _, rfl⟩ | ⟨_, _, _, _, _, rfl⟩ | ⟨_, _, _, _, rfl⟩ | ⟨_, _, _, _, _, rfl⟩ |
      ⟨_, rfl⟩
    · rfl
    · exact State.writeReg_cfg _ _ _
    · rfl
    · rfl
    · rfl
  · rfl

/-- Settles O51: `ID` is one word and `MEMSZ` is read from the parameters. -/
theorem constantsNeverChange : Obligations.ConstantsNeverChange := by
  intro s t h
  refine ⟨step_cfg h, rfl, ?_⟩
  show some (BitVec.ofNat 32 t.cfg.memSize) = some (BitVec.ofNat 32 s.cfg.memSize)
  rw [step_cfg h]

end Sys2Proof.Machine
end

section
/-! PROOFS. The bound on the error window (`10_state.md` R34): a cell holds no more than 255 times the weights of the shares
whose source pixel is already processed, and the weights of a kernel sum to 65536. -/

namespace Sys2Proof.Machine

/-! ## Weights of shares -/

/-- The sum of the weights of the shares that meet a condition. -/
def weightWhere (p : Share → Bool) : List Share → Nat
  | [] => 0
  | sh :: rest => (if p sh then sh.weight else 0) + weightWhere p rest

theorem weightWhere_mono {p q : Share → Bool} (h : ∀ sh, p sh = true → q sh = true) (shares : List Share) :
    weightWhere p shares ≤ weightWhere q shares := by
  induction shares with
  | nil => exact Nat.le_refl _
  | cons sh rest ih =>
    have hsh : (if p sh then sh.weight else 0) ≤ if q sh then sh.weight else 0 := by
      by_cases hp : p sh = true
      · rw [if_pos hp, if_pos (h sh hp)]
      · rw [if_neg hp]
        exact Nat.zero_le _
    exact Nat.add_le_add hsh ih

theorem weightWhere_or {p q : Share → Bool} (h : ∀ sh, p sh = true → q sh = false) (shares : List Share) :
    weightWhere p shares + weightWhere q shares = weightWhere (fun sh => p sh || q sh) shares := by
  induction shares with
  | nil => rfl
  | cons sh rest ih =>
    simp only [weightWhere]
    by_cases hp : p sh = true
    · simp only [hp, h sh hp, Bool.or_false, Bool.false_eq_true, if_false, if_true]
      omega
    · simp only [Bool.eq_false_iff.2 hp, Bool.false_or, Bool.false_eq_true, if_false]
      omega

theorem weightWhere_le_sum (p : Share → Bool) (shares : List Share) :
    weightWhere p shares ≤ (shares.map (fun sh => sh.weight)).sum := by
  induction shares with
  | nil => exact Nat.le_refl _
  | cons sh rest ih =>
    have hsh : (if p sh then sh.weight else 0) ≤ sh.weight := by split <;> omega
    simpa only [weightWhere, List.map_cons, List.sum_cons] using Nat.add_le_add hsh ih

/-- The weights of a kernel a legal parameter set holds sum to one error unit (`44_dither.md` R202 (a)). -/
theorem kernelShares_sum {p : Params} (h : p.legal = true) (k : KernelId) :
    ((kernelShares (kernelOf p.krom k)).map (fun sh => sh.weight)).sum = 65536 := by
  have hk : kernelOk (kernelOf p.krom k) = true := by
    simp only [Params.legal, kromOk, Bool.and_eq_true] at h
    cases k <;> simp only [kernelOf, h]
  simp only [kernelOk, sharesSumToUnit, Bool.and_eq_true, decide_eq_true_eq] at hk
  obtain ⟨⟨⟨⟨_, hsum⟩, _⟩, _⟩, _⟩ := hk
  exact hsum

/-! ## The magnitude of a cell -/

/-- Every channel of the cell has magnitude at most `n`. -/
def ErrCell.Within (c : ErrCell) (n : Nat) : Prop := c.red.natAbs ≤ n ∧ c.green.natAbs ≤ n ∧ c.blue.natAbs ≤ n

theorem ErrCell.Within.zero (n : Nat) : ErrCell.zero.Within n := by simp [ErrCell.Within, ErrCell.zero]

theorem ErrCell.Within.mono {c : ErrCell} {m n : Nat} (h : c.Within m) (hmn : m ≤ n) : c.Within n := by
  obtain ⟨hr, hg, hb⟩ := h
  exact ⟨hr.trans hmn, hg.trans hmn, hb.trans hmn⟩

theorem ErrCell.Within.add {c d : ErrCell} {m n : Nat} (hc : c.Within m) (hd : d.Within n) : (c.add d).Within (m + n) := by
  simp only [ErrCell.Within, ErrCell.add] at *
  omega

theorem ErrCell.Within.scale {c : ErrCell} {n : Nat} (h : c.Within n) (w : Nat) : (c.scale w).Within (n * w) := by
  obtain ⟨hr, hg, hb⟩ := h
  simp only [ErrCell.Within, ErrCell.scale, Int.natAbs_mul, Int.natAbs_natCast]
  exact ⟨Nat.mul_le_mul_right w hr, Nat.mul_le_mul_right w hg, Nat.mul_le_mul_right w hb⟩

/-- A residual is a difference of two bytes (`44_dither.md` R207). -/
theorem residual_within (q p : Colour) : (residual q p).Within 255 := by
  have := q.red.isLt
  have := q.green.isLt
  have := q.blue.isLt
  have := p.red.isLt
  have := p.green.isLt
  have := p.blue.isLt
  simp only [ErrCell.Within, residual]
  omega

/-! ## The cells of the window -/

/-- The row of `E` with a given number. -/
def ErrWindow.row (e : ErrWindow) : Fin 3 → List ErrCell
  | 0 => e.row0
  | 1 => e.row1
  | 2 => e.row2

/-- The cell of row `r`, column `c`, no error outside the row. -/
def ErrWindow.cell (e : ErrWindow) (r : Fin 3) (c : Nat) : ErrCell := (e.row r).getD c ErrCell.zero

theorem getD_modify (l : List ErrCell) (i j : Nat) (f : ErrCell → ErrCell) (z : ErrCell) :
    (l.modify i f).getD j z = if i = j ∧ j < l.length then f (l.getD j z) else l.getD j z := by
  simp only [List.getD_eq_getElem?_getD, List.getElem?_modify]
  by_cases hj : j < l.length
  · by_cases hij : i = j <;> simp [hj, hij]
  · simp [hj]

/-- Adding error to a cell changes that cell only. -/
theorem ErrWindow.cell_addAt (e : ErrWindow) (dy r : Fin 3) (col c : Nat) (d : ErrCell) :
    (e.addAt dy col d).cell r c = e.cell r c ∨
      (r = dy ∧ c = col ∧ (e.addAt dy col d).cell r c = (e.cell r c).add d) := by
  by_cases hr : r = dy
  · subst hr
    have hrow : (e.addAt r col d).row r = (e.row r).modify col (fun x => x.add d) := by
      match r with
      | 0 | 1 | 2 => rfl
    have hcell : (e.addAt r col d).cell r c
        = if col = c ∧ c < (e.row r).length then (e.cell r c).add d else e.cell r c := by
      rw [ErrWindow.cell, hrow, getD_modify]
      rfl
    by_cases hc : col = c ∧ c < (e.row r).length
    · exact Or.inr ⟨rfl, hc.1.symm, hcell.trans (if_pos hc)⟩
    · exact Or.inl (hcell.trans (if_neg hc))
  · have hrow : (e.addAt dy col d).row r = e.row r := by
      match dy, r with
      | 0, 1 | 0, 2 | 1, 0 | 1, 2 | 2, 0 | 2, 1 => rfl
      | 0, 0 | 1, 1 | 2, 2 => exact absurd rfl hr
    exact Or.inl (by simp only [ErrWindow.cell, hrow])

theorem ErrWindow.exists_cell {e : ErrWindow} {x : ErrCell} (h : x ∈ e.row0 ++ e.row1 ++ e.row2) :
    ∃ r c, x = e.cell r c := by
  have hrow (r : Fin 3) (hx : x ∈ e.row r) : ∃ r c, x = e.cell r c := by
    obtain ⟨c, hc, rfl⟩ := List.mem_iff_getElem.1 hx
    exact ⟨r, c, (List.getD_eq_getElem _ _ hc).symm⟩
  simp only [List.mem_append] at h
  rcases h with (h | h) | h
  · exact hrow 0 h
  · exact hrow 1 h
  · exact hrow 2 h

theorem ErrWindow.cell_zero (w : Nat) (r : Fin 3) (c : Nat) : (ErrWindow.zero w).cell r c = ErrCell.zero := by
  have hrow : (ErrWindow.zero w).row r = zeroRow w := by
    match r with
    | 0 | 1 | 2 => rfl
  simp only [ErrWindow.cell, hrow, zeroRow, List.getD_eq_getElem?_getD, List.getElem?_replicate]
  split <;> rfl

/-! ## Diffusing one residual -/

/-- The share of a pixel in column `col` goes to row `r`, column `c`. -/
def shareReaches (col : Nat) (r : Fin 3) (c : Nat) (sh : Share) : Bool :=
  decide (sh.dy = r) && decide ((col : Int) + sh.dx = c)

theorem diffuseShare_within {w col : Nat} {res : ErrCell} (hres : res.Within 255) {e : ErrWindow} (sh : Share) {r : Fin 3}
    {c n : Nat} (h : (e.cell r c).Within (255 * n)) :
    ((diffuseShare w col res e sh).cell r c).Within (255 * (n + if shareReaches col r c sh then sh.weight else 0)) := by
  have hkeep : (e.cell r c).Within (255 * (n + if shareReaches col r c sh then sh.weight else 0)) := h.mono (by omega)
  unfold diffuseShare
  split
  · rename_i hin
    rcases e.cell_addAt sh.dy r ((col : Int) + sh.dx).toNat c (res.scale sh.weight) with heq | ⟨hr, hc, heq⟩ <;> rw [heq]
    · exact hkeep
    · have hreach : shareReaches col r c sh = true := by
        simp only [shareReaches, Bool.and_eq_true, decide_eq_true_eq]
        omega
      rw [if_pos hreach, Nat.mul_add]
      exact h.add (hres.scale sh.weight)
  · exact hkeep

theorem diffuse_within {w col : Nat} {res : ErrCell} (hres : res.Within 255) {r : Fin 3} {c : Nat} (shares : List Share) :
    ∀ {e : ErrWindow} {n : Nat}, (e.cell r c).Within (255 * n) →
      ((diffuse shares w col res e).cell r c).Within (255 * (n + weightWhere (shareReaches col r c) shares)) := by
  induction shares with
  | nil => exact fun h => h
  | cons sh rest ih =>
    intro e n h
    rw [weightWhere, ← Nat.add_assoc]
    exact ih (diffuseShare_within hres sh h)

/-! ## The invariant of the window -/

/-- Before pixel (`col`, y) the share that goes to row `r` of the window, column `c`, comes from a pixel already processed: one
of a row above, or one of this row to the left of `col`. -/
def shareSent (col : Nat) (r : Fin 3) (c : Nat) (sh : Share) : Bool :=
  decide (r < sh.dy) || (decide (sh.dy = r) && decide ((c : Int) - sh.dx < col))

/-- Every cell holds at most 255 times the weights already sent to it. -/
def ErrWindow.Bounded (shares : List Share) (col : Nat) (e : ErrWindow) : Prop :=
  ∀ r c, (e.cell r c).Within (255 * weightWhere (shareSent col r c) shares)

theorem ErrWindow.Bounded.zero (shares : List Share) (col w : Nat) : (ErrWindow.zero w).Bounded shares col := by
  intro r c
  rw [ErrWindow.cell_zero]
  exact ErrCell.Within.zero _

/-- A pixel sends to each cell what the step from its column to the next allows. -/
theorem ErrWindow.Bounded.ditherPixel {cx : DitherContext} {e : ErrWindow} {col : Nat} (h : e.Bounded cx.shares col)
    (src : Colour) : (ditherPixel cx e col src).2.Bounded cx.shares (col + 1) := by
  intro r c
  have hsent : weightWhere (shareSent col r c) cx.shares + weightWhere (shareReaches col r c) cx.shares
      ≤ weightWhere (shareSent (col + 1) r c) cx.shares := by
    rw [weightWhere_or]
    · refine weightWhere_mono (fun sh hsh => ?_) _
      simp only [shareSent, shareReaches, Bool.or_eq_true, Bool.and_eq_true, decide_eq_true_eq] at hsh ⊢
      omega
    · intro sh hsh
      simp only [shareSent, shareReaches, Bool.or_eq_true, Bool.and_eq_true, decide_eq_true_eq, Bool.and_eq_false_iff,
        decide_eq_false_iff_not] at hsh ⊢
      omega
  exact (diffuse_within (residual_within _ _) cx.shares (h r c)).mono (Nat.mul_le_mul_left 255 hsent)

theorem ErrWindow.Bounded.ditherRow {cx : DitherContext} {e : ErrWindow} (h : e.Bounded cx.shares 0) (src : Nat → Colour)
    (n : Nat) : (ditherRow cx src e n).2.Bounded cx.shares n := by
  induction n with
  | zero => exact h
  | succ n ih => exact ih.ditherPixel (src n)

/-- What was sent to a row from a row above counts as sent once that row is the next one up. -/
theorem ErrWindow.Bounded.rotate {shares : List Share} {col : Nat} {e : ErrWindow} (h : e.Bounded shares col) (w : Nat) :
    (e.rotate w).Bounded shares 0 := by
  have hrow (r r' : Fin 3) (hr : r < r') (c : Nat) :
      (e.cell r' c).Within (255 * weightWhere (shareSent 0 r c) shares) := by
    refine (h r' c).mono (Nat.mul_le_mul_left 255 (weightWhere_mono (fun sh hsh => ?_) _))
    simp only [shareSent, Bool.or_eq_true, Bool.and_eq_true, decide_eq_true_eq] at hsh ⊢
    omega
  intro r c
  match r with
  | 0 => exact hrow 0 1 (by decide) c
  | 1 => exact hrow 1 2 (by decide) c
  | 2 =>
    show ((ErrWindow.zero w).cell 2 c).Within _
    rw [ErrWindow.cell_zero]
    exact ErrCell.Within.zero _

theorem ErrWindow.Bounded.ditherRows (cx : DitherContext) (src : Nat → Nat → Colour) (n : Nat) :
    (ditherRows cx src n).2.Bounded cx.shares 0 := by
  induction n with
  | zero => exact ErrWindow.Bounded.zero _ _ _
  | succ n ih => exact (ih.ditherRow (fun col => src col n) cx.width).rotate cx.width

/-- Settles O31: the invariant `ErrWindow.Bounded`, with the weights of the whole kernel above every sum of sent weights. -/
theorem errorCellsStayBounded : Obligations.ErrorCellsStayBounded := by
  intro s k x y hlegal _ e cell hcell
  obtain ⟨r, c, rfl⟩ := ErrWindow.exists_cell hcell
  have hbound : e.Bounded (s.ditherContext k).shares x :=
    (ErrWindow.Bounded.ditherRows _ _ y).ditherRow (fun col => s.sourcePixel col y) x
  have hsum : weightWhere (shareSent x r c) (s.ditherContext k).shares ≤ 65536 :=
    (weightWhere_le_sum _ _).trans_eq (kernelShares_sum hlegal k)
  exact (hbound r c).mono (Nat.mul_le_mul_left 255 hsum)

end Sys2Proof.Machine
end

section
/-! PROOFS. Noninterference: a command depends on the operand registers it uses, the bytes it may read and the parameters. Each
function of MEM a command computes is first shown to look at the bytes of its own operand only. -/

namespace Sys2Proof.Machine

open Sys2Proof.Spec

/-! ## Functions that look at part of their argument -/

theorem accumulate_congr {bit bit' : Nat → Bool} (n : Nat) (h : ∀ k, k < n → bit k = bit' k) (acc : Nat) :
    accumulate bit n acc = accumulate bit' n acc := by
  induction n generalizing acc with
  | zero => rfl
  | succ n ih =>
    rw [accumulate, accumulate, h n (Nat.lt_succ_self n)]
    exact ih (fun k hk => h k (Nat.lt_succ_of_lt hk)) _

theorem memRead_congr {s s' : State} (n : Nat) : ∀ addr, (∀ j, j < n → s.readByte (addr + j) = s'.readByte (addr + j)) →
    s.memRead addr n = s'.memRead addr n := by
  induction n with
  | zero => exact fun _ _ => rfl
  | succ n ih =>
    intro addr h
    have hrest : s.memRead (addr + 1) n = s'.memRead (addr + 1) n :=
      ih _ (fun j hj => by simpa only [Nat.add_assoc, Nat.add_comm 1] using h (j + 1) (by omega))
    rw [State.memRead, State.memRead, hrest, show s.readByte addr = s'.readByte addr from h 0 (by omega)]

theorem readBytes_congr {s s' : State} {addr n : Nat} (h : ∀ j, j < n → s.readByte (addr + j) = s'.readByte (addr + j)) :
    s.readBytes addr n = s'.readBytes addr n := by
  refine List.ext_getElem (by simp) (fun j hj hj' => ?_)
  rw [State.readBytes_getElem, State.readBytes_getElem]
  exact h j (by simpa using hj)

/-- The HAM run looks up the palette entries its codes name. -/
theorem hamRun_congr (action : Byte → HamAction) {pal pal' : Nat → Colour} (codes : List Byte)
    (h : ∀ c ∈ codes, ∀ i, action c = .base i → pal i = pal' i) (hcr : Colour) :
    hamRun action pal hcr codes = hamRun action pal' hcr codes := by
  induction codes generalizing hcr with
  | nil => rfl
  | cons c rest ih =>
    have hstep : (action c).apply pal hcr = (action c).apply pal' hcr := by
      cases hc : action c with
      | base i => exact h c List.mem_cons_self i hc
      | blue | red | green => rfl
    rw [hamRun, hamRun, hstep, ih (fun c' hc' => h c' (List.mem_cons_of_mem _ hc'))]

/-- Two contexts that choose the same indices and hold the same colours at them. -/
structure DitherContext.Agree (cx cx' : DitherContext) : Prop where
  errDiv : cx.errDiv = cx'.errDiv
  shares : cx.shares = cx'.shares
  width : cx.width = cx'.width
  choose : ∀ q, cx.choose q = cx'.choose q
  pal : ∀ q, cx.pal (cx'.choose q) = cx'.pal (cx'.choose q)

theorem ditherPixel_congr {cx cx' : DitherContext} (h : cx.Agree cx') (e : ErrWindow) (col : Nat) (src : Colour) :
    ditherPixel cx e col src = ditherPixel cx' e col src := by
  simp only [ditherPixel, h.errDiv, h.shares, h.width, h.pal, h.choose]

theorem ditherRow_congr {cx cx' : DitherContext} (h : cx.Agree cx') {src src' : Nat → Colour} (e : ErrWindow) (n : Nat)
    (hsrc : ∀ col, col < n → src col = src' col) : ditherRow cx src e n = ditherRow cx' src' e n := by
  induction n with
  | zero => rfl
  | succ n ih =>
    rw [ditherRow, ditherRow, ih (fun col hcol => hsrc col (Nat.lt_succ_of_lt hcol)), hsrc n (Nat.lt_succ_self n)]
    simp only [ditherPixel_congr h]

theorem ditherRows_congr {cx cx' : DitherContext} (h : cx.Agree cx') {src src' : Nat → Nat → Colour} (n : Nat)
    (hsrc : ∀ col row, col < cx.width → row < n → src col row = src' col row) :
    ditherRows cx src n = ditherRows cx' src' n := by
  induction n with
  | zero => rw [ditherRows, ditherRows, h.width]
  | succ n ih =>
    rw [ditherRows, ditherRows, ih (fun col row hc hr => hsrc col row hc (Nat.lt_succ_of_lt hr)), ← h.width]
    simp only [ditherRow_congr h _ cx.width (fun col hc => hsrc col n hc (Nat.lt_succ_self n))]

/-! ## Two states after the same write -/

theorem readByte_storeBytes_agree (s s' : State) {base a : Nat} {bs : List Byte} (ha : Within a (base, bs.length)) :
    (s.setMem (s.mem.storeBytes base bs)).readByte a = (s'.setMem (s'.mem.storeBytes base bs)).readByte a := by
  have hin : base ≤ a ∧ a < base + bs.length := ha
  rw [State.readByte_storeBytes, State.readByte_storeBytes, if_pos hin, if_pos hin]

theorem readByte_storeImage_agree (s s' : State) {base stride w b h y a : Nat} {pix pix' : Nat → Nat → Nat}
    (hs : w * b ≤ stride) (hpix : ∀ x y, x < w → y < h → pix x y = pix' x y) (hy : y < h)
    (ha : Within a (base + y * stride, w * b)) :
    (s.setMem (s.mem.storeImage base stride w b pix h)).readByte a
      = (s'.setMem (s'.mem.storeImage base stride w b pix' h)).readByte a := by
  obtain ⟨hlow, hhigh⟩ := ha
  obtain ⟨k, rfl⟩ := Nat.exists_eq_add_of_le hlow
  have hk : k < w * b := by simpa using hhigh
  have hb : 0 < b := Nat.pos_of_mul_pos_left (Nat.zero_lt_of_lt hk)
  have hx : k / b < w := (Nat.div_lt_iff_lt_mul hb).2 hk
  have hk' : base + y * stride + k = base + y * stride + k / b * b + k % b := by
    have := Nat.div_add_mod' k b
    omega
  show State.readByte _ (base + y * stride + k) = State.readByte _ (base + y * stride + k)
  rw [hk', State.readByte_storeImage_same _ _ _ hs hx hy (Nat.mod_lt _ hb),
    State.readByte_storeImage_same _ _ _ hs hx hy (Nat.mod_lt _ hb), hpix _ _ hx hy]

/-- An address of a bitmap without gaps lies in one of its rows. -/
theorem exists_row {base w h b a : Nat} (ha : Within a (base, w * h * b)) :
    ∃ y, y < h ∧ Within a (base + y * (w * b), w * b) := by
  obtain ⟨hlow, hhigh⟩ := ha
  obtain ⟨k, rfl⟩ := Nat.exists_eq_add_of_le hlow
  have harea : w * h * b = h * (w * b) := by ring
  have hk : k < h * (w * b) := by rw [← harea]; simpa using hhigh
  have hrow : 0 < w * b := Nat.pos_of_mul_pos_left (Nat.zero_lt_of_lt hk)
  refine ⟨k / (w * b), (Nat.div_lt_iff_lt_mul hrow).2 hk, ?_⟩
  have hdiv := Nat.div_add_mod' k (w * b)
  have hmod := Nat.mod_lt k hrow
  simp only [Within]
  omega

/-! ## Two states that a family cannot tell apart -/

/-- The states agree on the parameters, on the operand registers the family uses and on the bytes it may read. -/
structure Agree (f : Family) (s s' : State) : Prop where
  cfg : s.cfg = s'.cfg
  regs : ∀ r ∈ usedRegs f, s.x.get r = s'.x.get r
  bytes : ∀ a, reads f s a → s.readByte a = s'.readByte a

theorem pal_agree {s s' : State} (hpalb : s.x.palb = s'.x.palb) {i : Nat}
    (h : ∀ j, j < 3 → s.readByte (s.x.palb.toNat + 3 * i + j) = s'.readByte (s.x.palb.toNat + 3 * i + j)) :
    s.pal i = s'.pal i := by
  have hred := h 0 (by omega)
  rw [Nat.add_zero] at hred
  simp only [State.pal, ← hpalb, hred, h 1 (by omega), h 2 (by omega)]

/-- The entries below `n` of a palette whose bytes agree. -/
theorem pal_agree_below {n i : Nat} {s s' : State} (hpalb : s.x.palb = s'.x.palb)
    (h : ∀ a, Within a (s.x.palb.toNat, 3 * n) → s.readByte a = s'.readByte a) (hi : i < n) : s.pal i = s'.pal i := by
  refine pal_agree hpalb (fun j hj => h _ ?_)
  simp only [Within]
  omega

theorem hamSource_agree {f : Family} {s s' : State} (h : Agree f s s') (hf : f = .ham6 ∨ f = .ham8) :
    s.hamSource = s'.hamSource := by
  have hchb : s.x.chb = s'.x.chb := h.regs .chb (by rcases hf with rfl | rfl <;> simp [usedRegs])
  have hw : s.x.w = s'.x.w := h.regs .w (by rcases hf with rfl | rfl <;> simp [usedRegs])
  have hh : s.x.h = s'.x.h := h.regs .h (by rcases hf with rfl | rfl <;> simp [usedRegs])
  have hbytes : ∀ a, Within a (cxRange s 1) → s.readByte a = s'.readByte a := by
    rcases hf with rfl | rfl <;> exact fun a ha => h.bytes a (Or.inl ha)
  rw [State.hamSource, State.hamSource, ← hchb, ← hw, ← hh]
  refine readBytes_congr (fun j hj => hbytes _ ?_)
  simp only [Within, cxRange]
  omega

theorem hamOutput_agree {s s' : State} (action : Byte → HamAction) (hsrc : s.hamSource = s'.hamSource)
    (hpal0 : s.pal 0 = s'.pal 0) (hpal : ∀ c ∈ s.hamSource, ∀ i, action c = .base i → s.pal i = s'.pal i) :
    s.hamOutput action = s'.hamOutput action := by
  rw [State.hamOutput, State.hamOutput, ← hsrc, ← hpal0, hamRun_congr action _ hpal]

theorem hamAction_eq_base {mode i : Nat} {code intensity : Byte} (h : hamAction mode code intensity = .base i) :
    mode = 0 ∧ i = code.toNat := by
  unfold hamAction at h
  split at h <;> cases h
  exact ⟨rfl, rfl⟩

/-- A HAM6 code that names a palette entry names one below 16 (`42_ham.md` R163). -/
theorem ham6Action_base_lt {c : Byte} {i : Nat} (hc : c >>> 6 = 0) (h : ham6Action c = .base i) : i < 16 := by
  obtain ⟨hmode, rfl⟩ := hamAction_eq_base h
  have hlow : c.toNat / 16 % 4 = 0 := by
    rwa [BitVec.toNat_and, BitVec.toNat_ushiftRight, Nat.shiftRight_eq_div_pow,
      show (3 : Byte).toNat = 2 ^ 2 - 1 from rfl, Nat.and_two_pow_sub_one_eq_mod] at hmode
  have hhigh : c.toNat / 64 = 0 := by
    simpa [Nat.shiftRight_eq_div_pow] using congrArg BitVec.toNat hc
  omega

/-- A HAM8 code that names a palette entry names one below 64 (`42_ham.md` R164). -/
theorem ham8Action_base_lt {c : Byte} {i : Nat} (h : ham8Action c = .base i) : i < 64 := by
  obtain ⟨hmode, rfl⟩ := hamAction_eq_base h
  rw [BitVec.toNat_ushiftRight, Nat.shiftRight_eq_div_pow] at hmode
  omega

theorem paletteIndex_agree {s s' : State} (hpaln : s.x.paln = s'.x.paln) (h0 : 0 < s.x.paln.toNat)
    (hpal : ∀ i, i < s.x.paln.toNat → s.pal i = s'.pal i) (c : Colour) : s.paletteIndex c = s'.paletteIndex c := by
  rw [State.paletteIndex, State.paletteIndex, ← hpaln]
  exact nearest_congr c h0 (fun j _ hj => hpal j hj)

theorem paletteIndex_lt {s : State} (h : 0 < s.x.paln.toNat) (c : Colour) : s.paletteIndex c < s.x.paln.toNat :=
  (nearest_spec s.pal c h).2.1

/-! ## The checks -/

/-- The checks look at the registers of the family, and HAM6's last one at the source bytes. -/
theorem familyChecks_agree {f : Family} {s s' : State} (h : Agree f s s') : familyChecks f s = familyChecks f s' := by
  have hcfg := h.cfg
  have hregs := h.regs
  cases f <;>
    simp only [usedRegs, List.forall_mem_cons, OpRegs.get, List.not_mem_nil, false_implies, implies_true, and_true] at hregs
  case plclr =>
    simp only [familyChecks, plclrChecks, checkPlanes, checkDim, checkFits, OpRegs.plx, OpRegs.planeSize, hcfg, hregs]
  case fillp =>
    simp only [familyChecks, fillpChecks, checkPlanes, checkPlane, checkDim, checkFits, OpRegs.plx, OpRegs.planeSize, hcfg,
      hregs]
  case deint =>
    simp only [familyChecks, deintChecks, checkPlanes, checkDim, checkFits, OpRegs.plx, OpRegs.planeSize, OpRegs.ddx,
      OpRegs.deintStride, hcfg, hregs]
  case solid => simp only [familyChecks, solidChecks, checkDim, checkFits, OpRegs.cx, hcfg, hregs]
  case expand => simp only [familyChecks, expandChecks, checkDim, checkScale, checkFits, OpRegs.cx, hcfg, hregs]
  case badWidth => rfl
  case ham6 =>
    have hsource : s.hamSource = s'.hamSource := hamSource_agree h (Or.inl rfl)
    simp only [familyChecks, hamChecks, checkDim, checkPal, checkPalMin, checkFits, checkPixels, OpRegs.cx, OpRegs.dx,
      OpRegs.px, hcfg, hregs, hsource]
  case ham8 =>
    simp only [familyChecks, hamChecks, checkDim, checkPal, checkPalMin, checkFits, OpRegs.cx, OpRegs.dx, OpRegs.px, hcfg,
      hregs]
  case rgb2pal =>
    simp only [familyChecks, rgb2palChecks, checkDim, checkPal, checkFits, OpRegs.cx, OpRegs.dx, OpRegs.px, hcfg, hregs]
  case nearest => simp only [familyChecks, nearestChecks, checkPal, checkFits, OpRegs.px, hcfg, hregs]

/-! ## The bytes written and `RES` -/

/-- The byte of the plane that a sample of `DEINT` reads lies in the planes below NPL (`40_planar.md` R127). -/
theorem planeAddr_within {s : State} {k col row : Nat} (hk : k < s.x.npl.toNat) (hcol : col < s.x.w.toNat)
    (hrow : row < s.x.h.toNat) : Within (s.x.planeAddr k col row) (s.x.plb.toNat, planeBytes s * s.x.npl.toNat) := by
  have hbyte : col / 8 < ppitch s.x.w.toNat := by
    unfold ppitch
    omega
  have hrows : (row + 1) * ppitch s.x.w.toNat ≤ s.x.planeSize := by
    rw [OpRegs.planeSize, Nat.mul_comm (ppitch _)]
    exact Nat.mul_le_mul_right _ hrow
  have hplanes : (k + 1) * s.x.planeSize ≤ planeBytes s * s.x.npl.toNat := by
    rw [Nat.mul_comm (planeBytes s)]
    exact Nat.mul_le_mul_right _ hk
  rw [Nat.add_mul, Nat.one_mul] at hrows hplanes
  simp only [Within, OpRegs.planeAddr]
  omega

theorem deintPixel_agree {s s' : State} (h : Agree .deint s s') {col row : Nat} (hcol : col < s.x.w.toNat)
    (hrow : row < s.x.h.toNat) : s.deintPixel col row = s'.deintPixel col row := by
  have hplb : s.x.plb = s'.x.plb := h.regs .plb (by simp [usedRegs])
  have hw : s.x.w = s'.x.w := h.regs .w (by simp [usedRegs])
  have hh : s.x.h = s'.x.h := h.regs .h (by simp [usedRegs])
  have hnpl : s.x.npl = s'.x.npl := h.regs .npl (by simp [usedRegs])
  rw [State.deintPixel, State.deintPixel, ← hnpl]
  refine accumulate_congr _ (fun k hk => ?_) 0
  have haddr : s.x.planeAddr k col row = s'.x.planeAddr k col row := by
    simp only [OpRegs.planeAddr, OpRegs.planeSize, hplb, hw, hh]
  rw [State.planeBit, State.planeBit, ← haddr, h.bytes _ (planeAddr_within hk hcol hrow)]

theorem expandPixel_agree {b : Nat} {s s' : State} (h : Agree (.expand b) s s')
    (hpass : firstFault (familyChecks (.expand b) s) = none) {col row : Nat} (hcol : col < s.x.w.toNat)
    (hrow : row < s.x.h.toNat) : s.expandPixel b col row = s'.expandPixel b col row := by
  have hchb : s.x.chb = s'.x.chb := h.regs .chb (by simp [usedRegs])
  have hw : s.x.w = s'.x.w := h.regs .w (by simp [usedRegs])
  have hsx : s.x.sx = s'.x.sx := h.regs .sx (by simp [usedRegs])
  have hsy : s.x.sy = s'.x.sy := h.regs .sy (by simp [usedRegs])
  obtain ⟨⟨hdivx, hdivy⟩, -⟩ := expand_pass hpass
  rw [State.expandPixel, State.expandPixel, ← hchb, ← hw, ← hsx, ← hsy]
  refine memRead_congr b _ (fun j hj => h.bytes _ ?_)
  exact ⟨_, _, j, Nat.div_lt_div_of_lt_of_dvd hdivx hcol, Nat.div_lt_div_of_lt_of_dvd hdivy hrow, hj, rfl⟩

theorem sourcePixel_agree {k : Option KernelId} {s s' : State} (h : Agree (.rgb2pal k) s s') {col row : Nat}
    (hcol : col < s.x.w.toNat) (hrow : row < s.x.h.toNat) : s.sourcePixel col row = s'.sourcePixel col row := by
  have hchb : s.x.chb = s'.x.chb := h.regs .chb (by simp [usedRegs])
  have hw : s.x.w = s'.x.w := h.regs .w (by simp [usedRegs])
  have harea : (row + 1) * s.x.w.toNat ≤ s.x.w.toNat * s.x.h.toNat := by
    rw [Nat.mul_comm s.x.w.toNat]
    exact Nat.mul_le_mul_right _ hrow
  rw [Nat.add_mul, Nat.one_mul] at harea
  have hbyte (j : Nat) (hj : j < 3) : s.readByte (s.x.chb.toNat + 4 * (row * s.x.w.toNat + col) + j)
      = s'.readByte (s.x.chb.toNat + 4 * (row * s.x.w.toNat + col) + j) := by
    refine h.bytes _ (Or.inl ⟨?_, by omega⟩)
    simp only [Within, cxRange]
    omega
  have hred := hbyte 0 (by omega)
  rw [Nat.add_zero] at hred
  simp only [State.sourcePixel, ← hchb, ← hw, hred, hbyte 1 (by omega), hbyte 2 (by omega)]

theorem ham6Output_agree {s s' : State} (h : Agree .ham6 s s') (hpass : firstFault (familyChecks .ham6 s) = none) :
    s.hamOutput ham6Action = s'.hamOutput ham6Action := by
  have hpal (i : Nat) (hi : i < 16) : s.pal i = s'.pal i :=
    pal_agree_below (h.regs .palb (by simp [usedRegs])) (fun a ha => h.bytes a (Or.inr ha)) hi
  obtain ⟨-, hcodes⟩ := ham6_pass hpass
  exact hamOutput_agree _ (hamSource_agree h (Or.inl rfl)) (hpal 0 (by decide))
    (fun c hc i hi => hpal i (ham6Action_base_lt (hcodes c hc) hi))

theorem ham8Output_agree {s s' : State} (h : Agree .ham8 s s') : s.hamOutput ham8Action = s'.hamOutput ham8Action := by
  have hpal (i : Nat) (hi : i < 64) : s.pal i = s'.pal i :=
    pal_agree_below (h.regs .palb (by simp [usedRegs])) (fun a ha => h.bytes a (Or.inr ha)) hi
  exact hamOutput_agree _ (hamSource_agree h (Or.inr rfl)) (hpal 0 (by decide))
    (fun c _ i hi => hpal i (ham8Action_base_lt hi))

theorem rgb2palPal_agree {k : Option KernelId} {s s' : State} (h : Agree (.rgb2pal k) s s') {i : Nat}
    (hi : i < s.x.paln.toNat) : s.pal i = s'.pal i :=
  pal_agree_below (h.regs .palb (by simp [usedRegs])) (fun a ha => h.bytes a (Or.inr ha)) hi

theorem rgb2palIndex_agree {k : Option KernelId} {s s' : State} (h : Agree (.rgb2pal k) s s')
    (hpass : firstFault (familyChecks (.rgb2pal k) s) = none) (c : Colour) : s.paletteIndex c = s'.paletteIndex c :=
  paletteIndex_agree (h.regs .paln (by simp [usedRegs])) (rgb2pal_pass hpass).1 (fun _ hi => rgb2palPal_agree h hi) c

theorem ditherOutput_agree {k : KernelId} {s s' : State} (h : Agree (.rgb2pal (some k)) s s')
    (hpass : firstFault (familyChecks (.rgb2pal (some k)) s) = none) : s.ditherOutput k = s'.ditherOutput k := by
  have hw : s.x.w = s'.x.w := h.regs .w (by simp [usedRegs])
  have hh : s.x.h = s'.x.h := h.regs .h (by simp [usedRegs])
  have hindex := rgb2palIndex_agree h hpass
  obtain ⟨hpaln, -⟩ := rgb2pal_pass hpass
  have hcontext : (s.ditherContext k).Agree (s'.ditherContext k) :=
    { errDiv := congrArg Params.errDiv h.cfg
      shares := congrArg (fun p : Params => kernelShares (kernelOf p.krom k)) h.cfg
      width := congrArg BitVec.toNat hw
      choose := hindex
      pal := fun q => rgb2palPal_agree h ((hindex q).symm.trans_lt (paletteIndex_lt hpaln q)) }
  rw [State.ditherOutput, State.ditherOutput, ← hh,
    ditherRows_congr hcontext _ (fun col row hcol hrow => sourcePixel_agree h hcol hrow)]

/-- Taking a fault as the spec writes it (`60_exceptions.md` R232). -/
theorem faulted_raise (s : State) (f : PdiFault) : Faulted s (s.raise f) f.code.toNat f.info.toNat := by
  rw [Faulted, BitVec.ofNat_toNat, BitVec.ofNat_toNat, BitVec.setWidth_eq, BitVec.setWidth_eq]
  rfl

/-- The bytes a completed command writes are the same in two states that agree. -/
theorem familyMem_agree {f : Family} {s s' : State} (h : Agree f s s') (hpass : firstFault (familyChecks f s) = none)
    {a : Nat} (ha : writes f s a) : (s.setMem (familyMem f s)).readByte a = (s'.setMem (familyMem f s')).readByte a := by
  have hregs := h.regs
  cases f <;>
    simp only [usedRegs, List.forall_mem_cons, OpRegs.get, List.not_mem_nil, false_implies, implies_true, and_true] at hregs
  case plclr =>
    simp only [familyMem, OpRegs.plx, OpRegs.planeSize, ← hregs]
    exact readByte_storeBytes_agree s s' (by rw [List.length_replicate]; exact ha)
  case fillp plane set =>
    simp only [familyMem, OpRegs.planeSize, ← hregs]
    exact readByte_storeBytes_agree s s' (by rw [List.length_replicate]; exact ha)
  case deint =>
    obtain ⟨hn, y, hy, hin⟩ := ha
    simp only [familyMem, OpRegs.deintStride, ← hregs, if_neg hn]
    exact readByte_storeImage_agree s s' (Nat.le_add_right _ _) (fun x y => deintPixel_agree h) hy hin
  case solid b =>
    obtain ⟨y, hy, hin⟩ := exists_row ha
    simp only [familyMem, ← hregs]
    exact readByte_storeImage_agree s s' (Nat.le_refl _) (fun _ _ _ _ => rfl) hy hin
  case expand b =>
    obtain ⟨y, hy, hin⟩ := exists_row ha
    simp only [familyMem, ← hregs]
    exact readByte_storeImage_agree s s' (Nat.le_refl _) (fun x y => expandPixel_agree h hpass) hy hin
  case badWidth => exact absurd hpass not_badWidth_pass
  case ham6 =>
    simp only [familyMem, ← hregs, ← ham6Output_agree h hpass]
    refine readByte_storeBytes_agree s s' ?_
    rw [State.hamOutput_length, Nat.mul_comm 4]
    exact ha
  case ham8 =>
    simp only [familyMem, ← hregs, ← ham8Output_agree h]
    refine readByte_storeBytes_agree s s' ?_
    rw [State.hamOutput_length, Nat.mul_comm 4]
    exact ha
  case rgb2pal kernel =>
    cases kernel with
    | none =>
      obtain ⟨y, hy, hin⟩ := exists_row ha
      simp only [familyMem, ← hregs]
      rw [Nat.mul_one] at hin
      refine readByte_storeImage_agree s s' (Nat.le_of_eq (Nat.mul_one _)) (fun col row hcol hrow => ?_) hy
        (by rwa [Nat.mul_one])
      rw [sourcePixel_agree h hcol hrow, rgb2palIndex_agree h hpass]
    | some k =>
      simp only [familyMem, ← hregs, ← ditherOutput_agree h hpass]
      refine readByte_storeBytes_agree s s' ?_
      rw [State.ditherOutput_length, Nat.mul_comm, ← Nat.mul_one (_ * _)]
      exact ha
  case nearest => exact ha.elim

/-- `NEAREST` looks at the entries from PALF on (`43_nearest_quantize.md` R184). -/
theorem familyRes_nearest_agree {s s' : State} (h : Agree .nearest s s')
    (hpass : firstFault (familyChecks .nearest s) = none) : familyRes .nearest s = familyRes .nearest s' := by
  have hpalb : s.x.palb = s'.x.palb := h.regs .palb (by simp [usedRegs])
  have hpaln : s.x.paln = s'.x.paln := h.regs .paln (by simp [usedRegs])
  have hpalf : s.x.palf = s'.x.palf := h.regs .palf (by simp [usedRegs])
  have hcolor : s.x.color = s'.x.color := h.regs .color (by simp [usedRegs])
  obtain ⟨-, hrange⟩ := nearest_pass hpass
  rw [familyRes_nearest, familyRes_nearest, ← hpaln, ← hpalf, ← hcolor]
  refine congrArg _ (nearest_congr _ hrange (fun i hlow hhigh => pal_agree hpalb (fun j hj => h.bytes _ ?_)))
  simp only [reads, Within]
  omega

/-- Settles O11: the checks agree, and so do the bytes and the result of a command that passes them. -/
theorem commandsDependOnlyOnTheirOperands : Obligations.CommandsDependOnlyOnTheirOperands := by
  intro i s s' hcfg hregs hbytes
  have h : Agree (family i) s s' := ⟨hcfg, hregs, hbytes⟩
  have hchecks := familyChecks_agree h
  rcases exec_outcome i s with ⟨f, hf, e⟩ | ⟨hpass, e⟩
  · have e' : exec i s' = .next (s'.raise f) := by
      rw [exec_eq_runCommand, runCommand_of_fault (hchecks ▸ hf)]
    exact ⟨_, _, e, e', Or.inl ⟨f.code.toNat, f.info.toNat, faulted_raise s f, faulted_raise s' f⟩⟩
  · have e' : exec i s' = .next (familyEffect (family i) s').complete := by
      rw [exec_eq_runCommand, runCommand_of_pass (hchecks ▸ hpass)]
    refine ⟨_, _, e, e', Or.inr ⟨rfl, rfl, fun a ha => familyMem_agree h hpass ha, ?_⟩⟩
    rintro rfl
    exact familyRes_nearest_agree h hpass

end Sys2Proof.Machine
end

section
/-! PROOFS. The memory layout: the pitch and the pixel width (`20_memory.md` R78), and the frame of MEM. What a write leaves
alone is said once for a run of bytes and once for a bitmap; each family of commands writes by one of the two. -/

namespace Sys2Proof.Machine

open Sys2Proof.Spec

/-! ## The pitch of a plane -/

theorem ppitch_even (w : Nat) : ppitch w % 2 = 0 := Nat.mul_mod_left _ _

/-- A row of a plane has a bit for every pixel. -/
theorem le_eight_mul_ppitch (w : Nat) : w ≤ 8 * ppitch w := by
  unfold ppitch
  omega

/-- Settles O35: the pitch is a multiple of two that covers the width; the two formulas are the definitions. -/
theorem pitchAndPixelWidth : Obligations.PitchAndPixelWidth :=
  ⟨fun w => ⟨rfl, ppitch_even w, le_eight_mul_ppitch w⟩, fun _ => rfl⟩

/-! ## Bytes outside a write -/

theorem readByte_storeBytes_outside (s : State) {base a : Nat} {bs : List Byte} (ha : ¬Within a (base, bs.length)) :
    (s.setMem (s.mem.storeBytes base bs)).readByte a = s.readByte a := by
  rw [State.readByte_storeBytes]
  exact if_neg ha

theorem readByte_storeImage_outside_rows (s : State) {base stride w b h a : Nat} (pix : Nat → Nat → Nat)
    (ha : ∀ y, y < h → ¬Within a (base + y * stride, w * b)) :
    (s.setMem (s.mem.storeImage base stride w b pix h)).readByte a = s.readByte a := by
  refine State.readByte_storeImage_other s base stride w b pix h a (fun y hy => ?_)
  have hrow := ha y hy
  simp only [Within] at hrow
  omega

/-- Every row of a bitmap without gaps lies in the bitmap. -/
theorem within_of_row {base w h b y a : Nat} (hy : y < h) (ha : Within a (base + y * (w * b), w * b)) :
    Within a (base, w * h * b) := by
  have hrows : (y + 1) * (w * b) ≤ w * h * b := by
    rw [show w * h * b = h * (w * b) by ring]
    exact Nat.mul_le_mul_right _ hy
  rw [Nat.add_mul, Nat.one_mul] at hrows
  simp only [Within] at ha ⊢
  omega

theorem readByte_storeImage_outside (s : State) {base w b h a : Nat} (pix : Nat → Nat → Nat)
    (ha : ¬Within a (base, w * h * b)) :
    (s.setMem (s.mem.storeImage base (w * b) w b pix h)).readByte a = s.readByte a :=
  readByte_storeImage_outside_rows s pix (fun _ hy hrow => ha (within_of_row hy hrow))

/-! ## The frame of a command -/

/-- The effect of a family leaves every byte outside its written extents (`20_memory.md` R69) as it was. -/
theorem familyMem_outside {f : Family} {s : State} {a : Nat} (ha : ¬writes f s a) :
    (s.setMem (familyMem f s)).readByte a = s.readByte a := by
  cases f with
  | plclr => exact readByte_storeBytes_outside s (by rw [List.length_replicate]; exact ha)
  | fillp plane set => exact readByte_storeBytes_outside s (by rw [List.length_replicate]; exact ha)
  | deint =>
    by_cases hn : s.x.npl.toNat = 0
    · rw [familyMem, if_pos hn]
      rfl
    · rw [familyMem, if_neg hn]
      exact readByte_storeImage_outside_rows s _ (fun y hy hrow => ha ⟨hn, y, hy, hrow⟩)
  | solid b => exact readByte_storeImage_outside s _ ha
  | expand b => exact readByte_storeImage_outside s _ ha
  | ham6 | ham8 =>
    refine readByte_storeBytes_outside s ?_
    rw [State.hamOutput_length, Nat.mul_comm 4]
    exact ha
  | rgb2pal kernel =>
    cases kernel with
    | none =>
      have hframe := readByte_storeImage_outside s (fun col row => s.paletteIndex (s.sourcePixel col row)) ha
      rwa [Nat.mul_one] at hframe
    | some k =>
      refine readByte_storeBytes_outside s ?_
      rw [State.ditherOutput_length, Nat.mul_comm, ← Nat.mul_one (_ * _)]
      exact ha
  | badWidth | nearest => rfl

/-- Settles O10: a fault writes no byte, and a completion writes what its family's effect does. -/
theorem commandsWriteOnlyTheirExtents : Obligations.CommandsWriteOnlyTheirExtents := by
  intro i s t he a ha
  rcases exec_outcome i s with ⟨f, -, e⟩ | ⟨-, e⟩
  · obtain rfl := Host.Outcome.next.inj (e.symm.trans he)
    exact State.raise_readByte s f a
  · obtain rfl := Host.Outcome.next.inj (e.symm.trans he)
    exact familyMem_outside ha

end Sys2Proof.Machine
end

section
/-! PROOFS. The command words: what each format of `30_encoding.md` R91 decodes and rejects, and that decoding and encoding are
inverse to each other. -/

namespace Sys2Proof.Machine

open Sys2Proof.Spec

/-! ## The fields of a word -/

/-- The opcode byte (`30_encoding.md` R91). -/
theorem bits_opcode (c : Word) : bits c 7 0 = c.toNat % 256 := by
  rw [bits, Nat.pow_zero, Nat.div_one]
  rfl

/-- All bits from bit `n` up, which is where a format's reserved bits stand (`30_encoding.md` R91). -/
theorem bits_from (c : Word) {n : Nat} (hn : n ≤ 32) : bits c 31 n = c.toNat / 2 ^ n := by
  refine Nat.mod_eq_of_lt (Nat.div_lt_of_lt_mul ?_)
  rw [← Nat.pow_add, Nat.add_sub_cancel' hn]
  exact c.isLt

/-! ## What a format rejects -/

/-- A word is rejected by a test of its reserved bits exactly when the test fails. -/
theorem exists_error_of_test {n : Nat} {e : DecodeError} {i : Instr} :
    (∃ e', (if n ≠ 0 then Except.error e else Except.ok i : Except DecodeError Instr) = .error e') ↔ n ≠ 0 := by
  split <;> simp [*]

section Formats
variable (c : Word)

theorem decodeN_error_iff (i : Instr) : (∃ e, decodeN c i = .error e) ↔ c.toNat / 2 ^ 8 ≠ 0 := by
  rw [← bits_from c (by decide)]
  exact exists_error_of_test

theorem decodeP_error_iff : (∃ e, decodeP c = .error e) ↔ c.toNat / 2 ^ 14 ≠ 0 := by
  rw [← bits_from c (by decide)]
  exact exists_error_of_test

theorem decodeZ_error_iff (b h w sz3 : Instr) : (∃ e, decodeZ c b h w sz3 = .error e) ↔ c.toNat / 2 ^ 10 ≠ 0 := by
  rw [← bits_from c (by decide)]
  exact exists_error_of_test

theorem decodeK_error_iff : (∃ e, decodeK c = .error e) ↔ c.toNat / 2 ^ 12 ≠ 0 := by
  rw [← bits_from c (by decide)]
  exact exists_error_of_test

end Formats

/-- Settles O2: by the opcode byte, and then by the reserved bits of the format it selects. -/
theorem illegalWordsExactly : Obligations.IllegalWordsExactly := by
  intro w
  unfold decode
  split
  case h_10 h1 h2 h3 h4 h5 h6 h7 h8 h9 =>
    simp only [bits_opcode, imp_false] at h1 h2 h3 h4 h5 h6 h7 h8 h9
    refine iff_of_true ⟨_, rfl⟩ (Or.inl ?_)
    omega
  all_goals
    rename_i hop
    rw [bits_opcode] at hop
    simp [hop, decodeN_error_iff, decodeP_error_iff, decodeZ_error_iff, decodeK_error_iff]

/-! ## The word of a decoded command -/

section Words
variable {c : Word} {i : Instr}

theorem encodeNat_of_decodeN {j : Instr} (h : decodeN c j = .ok i) (hop : encodeNat j = c.toNat % 256) :
    encodeNat i = c.toNat := by
  unfold decodeN at h
  split at h <;> cases h
  rename_i hres
  rw [bits_from c (by decide)] at hres
  omega

theorem encodeNat_of_decodeP (hop : c.toNat % 256 = 2) (h : decodeP c = .ok i) : encodeNat i = c.toNat := by
  unfold decodeP at h
  split at h <;> cases h
  rename_i hres
  rw [bits_from c (by decide)] at hres
  have hplane : bits c 12 8 = c.toNat / 2 ^ 8 % 32 := rfl
  have hset : bits c 13 13 = c.toNat / 2 ^ 13 % 2 := rfl
  by_cases h1 : bits c 13 13 = 1
  · rw [encodeNat, if_pos (decide_eq_true h1)]
    omega
  · rw [encodeNat, if_neg (h1 ∘ of_decide_eq_true)]
    omega

/-- The four words of a format Z are 0x100 apart (`30_encoding.md` R95). -/
theorem encodeNat_of_decodeZ {b h w sz3 : Instr} (hd : decodeZ c b h w sz3 = .ok i)
    (hb : encodeNat b = c.toNat % 256) (hh : encodeNat h = c.toNat % 256 + 0x100)
    (hw : encodeNat w = c.toNat % 256 + 0x200) (hz : encodeNat sz3 = c.toNat % 256 + 0x300) : encodeNat i = c.toNat := by
  unfold decodeZ at hd
  split at hd <;> cases hd
  rename_i hres
  rw [bits_from c (by decide)] at hres
  split
  case h_4 h0 h1 h2 =>
    simp only [bits, imp_false] at h0 h1 h2
    omega
  all_goals
    rename_i hsz
    rw [bits] at hsz
    omega

/-- The sixteen words of `RGB2PAL` are 0x100 apart (`30_encoding.md` R96). -/
theorem encodeNat_kernelInstr {k : Nat} (hk : k < 16) : encodeNat (kernelInstr k) = 8 + 0x100 * k := by
  decide +revert

theorem encodeNat_of_decodeK (hop : c.toNat % 256 = 8) (h : decodeK c = .ok i) : encodeNat i = c.toNat := by
  unfold decodeK at h
  split at h <;> cases h
  rename_i hres
  rw [bits_from c (by decide)] at hres
  have hk : bits c 11 8 < 16 := Nat.mod_lt _ (by decide)
  rw [encodeNat_kernelInstr hk, bits]
  omega

theorem encodeNat_of_decode (h : decode c = .ok i) : encodeNat i = c.toNat := by
  have hop := bits_opcode c
  unfold decode at h
  split at h
  case h_10 => cases h
  all_goals rename_i hcode; rw [hcode] at hop
  · exact encodeNat_of_decodeN h hop
  · exact encodeNat_of_decodeP hop.symm h
  · exact encodeNat_of_decodeN h hop
  · exact encodeNat_of_decodeZ h hop (congrArg (· + 0x100) hop) (congrArg (· + 0x200) hop) (congrArg (· + 0x300) hop)
  · exact encodeNat_of_decodeZ h hop (congrArg (· + 0x100) hop) (congrArg (· + 0x200) hop) (congrArg (· + 0x300) hop)
  · exact encodeNat_of_decodeN h hop
  · exact encodeNat_of_decodeN h hop
  · exact encodeNat_of_decodeK hop.symm h
  · exact encodeNat_of_decodeN h hop

theorem encode_of_decode (h : decode c = .ok i) : encode i = c := by
  rw [encode, encodeNat_of_decode h, BitVec.ofNat_toNat, BitVec.setWidth_eq]

end Words

/-! ## The command of an encoded word -/

theorem decodeP_eq_fillp {c : Word} (h : c.toNat / 2 ^ 14 = 0) :
    decodeP c = .ok (.fillp (c.toNat / 2 ^ 8 % 32) (decide (c.toNat / 2 ^ 13 % 2 = 1))) := by
  rw [decodeP, bits_from c (by decide), if_neg (not_not_intro h)]
  rfl

/-- The word of `FILLP` has `PLANE` from bit 8 up and `SET` in bit 13 (`30_encoding.md` R94). -/
theorem decode_encode_fillp {plane : Nat} (hp : plane < 32) (set : Bool) :
    decode (encode (.fillp plane set)) = .ok (.fillp plane set) := by
  have hword : (encode (.fillp plane set)).toNat = 2 + 0x100 * plane + 0x2000 * set.toNat := by
    rw [encode, BitVec.toNat_ofNat, encodeNat]
    cases set <;> simp <;> omega
  have hset := set.toNat_le
  have hop : bits (encode (.fillp plane set)) 7 0 = 2 := by
    rw [bits_opcode]
    omega
  have hplane : (encode (.fillp plane set)).toNat / 2 ^ 8 % 32 = plane := by omega
  have hbit : (encode (.fillp plane set)).toNat / 2 ^ 13 % 2 = set.toNat := by omega
  rw [decode, hop, decodeP_eq_fillp (by omega), hplane, hbit]
  cases set <;> rfl

theorem decode_encode {i : Instr} (hi : i.wellFormed = true) : decode (encode i) = .ok i := by
  cases i with
  | fillp plane set => exact decode_encode_fillp (of_decide_eq_true hi) set
  | _ => rfl

/-- Settles O1. -/
theorem decodeAndEncodeAgree : Obligations.DecodeAndEncodeAgree := by
  intro w i
  constructor
  · exact fun h => ⟨wellFormed_of_decode h, encode_of_decode h⟩
  · rintro ⟨hi, rfl⟩
    exact decode_encode hi

/-- Settles O3: each word decodes by evaluation. -/
theorem sampleWordsDecode : Obligations.SampleWordsDecode :=
  ⟨rfl, rfl, rfl, rfl, rfl, rfl, rfl, rfl, rfl, rfl, rfl, rfl⟩

/-! ## The width `SZ` = 3 -/

/-- Settles O19: the only check of the family is the one that fails (`30_encoding.md` R95). -/
theorem badPixelWidthFaults : Obligations.BadPixelWidthFaults := by
  intro s i hi
  have hf : family i = .badWidth := by
    rcases List.mem_pair.1 hi with rfl | rfl <;> rfl
  refine ⟨s.raise .badBpp, ?_, faulted_raise s .badBpp⟩
  rw [exec_eq_runCommand, hf]
  exact runCommand_of_fault rfl

end Sys2Proof.Machine
end

section
/-! PROOFS. Runs of several steps: `WAIT`, and the lines of PDI assembly (`30_encoding.md` R102). -/

namespace Sys2Proof.Machine

open Sys2Proof.Spec

/-! ## Runs -/

theorem run_succ_eq_next (M : Host.Core) {s t : M.State} {n : Nat} :
    M.run (n + 1) s = .next t ↔ ∃ u, M.step s = .next u ∧ M.run n u = .next t := by
  rw [Host.Core.run]
  cases M.step s with
  | next u => exact ⟨fun h => ⟨u, rfl, h⟩, fun ⟨_, hu, h⟩ => Host.Outcome.next.inj hu ▸ h⟩
  | fault r | refused r => simp

/-- Some run from `s` ends in `t`. -/
def Reaches (s t : State) : Prop := ∃ n, Sys2Proof.core.run n s = .next t

theorem Reaches.refl (s : State) : Reaches s s := ⟨0, rfl⟩

theorem Reaches.head {s t u : State} (h : step s = .next t) : Reaches t u → Reaches s u :=
  fun ⟨n, hn⟩ => ⟨n + 1, (run_succ_eq_next _).2 ⟨t, h, hn⟩⟩

theorem Reaches.trans {s t u : State} (hst : Reaches s t) (htu : Reaches t u) : Reaches s u := by
  obtain ⟨n, hn⟩ := hst
  induction n generalizing s with
  | zero => exact Host.Outcome.next.inj hn ▸ htu
  | succ n ih =>
    obtain ⟨v, hv, hn⟩ := (run_succ_eq_next _).1 hn
    exact (ih hn).head hv

/-! ## `WAIT` -/

/-- A poll of `STATUS` (`30_encoding.md` R102): the reply is recorded, and `rest` is left to come. -/
def State.polled (s : State) (rest : List Turn) : State := { s.reply (.reg (statusWord s.status)) with script := rest }

theorem step_wait_idle {s : State} {rest : List Turn} (hs : s.script = .wait :: rest) (hb : s.status.busy = false) :
    step s = .next (s.polled rest) := by
  rw [step_of_wait hs, pollTurn, hb]
  rfl

theorem step_wait_busy {s : State} {rest : List Turn} (hs : s.script = .wait :: rest) (hb : s.status.busy = true) :
    step s = .next (s.polled (.engine :: .wait :: rest)) := by
  rw [step_of_wait hs, pollTurn, hb]
  rfl

theorem statusWord_bit_zero (f : Status) : (statusWord f).getLsbD 0 = f.busy := by
  obtain ⟨busy, done, err, ovr⟩ := f
  cases busy <;> cases done <;> cases err <;> cases ovr <;> rfl

/-- `WAIT` on an idle PDI is one poll. -/
theorem run_wait_idle {s : State} {rest : List Turn} (hs : s.script = .wait :: rest) (hb : s.status.busy = false) :
    Sys2Proof.core.run 1 s = .next (s.polled rest) := 
  (run_succ_eq_next _).2 ⟨_, step_wait_idle hs hb, rfl⟩

/-- `WAIT` on a busy PDI is a poll, the engine's turn, and a poll that reads BUSY = 0. -/
theorem run_wait_busy {s t : State} {rest : List Turn} (hs : s.script = .wait :: rest) (hb : s.status.busy = true)
    (ht : engineTurn (s.polled (.wait :: rest)) = .next t) : Sys2Proof.core.run 3 s = .next (t.polled rest) := by
  obtain ⟨_, _, _, _, _, hscript, _, hbusy, _⟩ := engineTurn_frame ht
  have hturn : step (s.polled (.engine :: .wait :: rest)) = .next t := (step_of_engine rfl).trans ht
  exact (run_succ_eq_next _).2 ⟨_, step_wait_busy hs hb, (run_succ_eq_next _).2 ⟨t, hturn, run_wait_idle hscript hbusy⟩⟩

/-- The engine's turn never stops the machine. -/
theorem exists_engineTurn (s : State) : ∃ t, engineTurn s = .next t := by
  unfold engineTurn
  split
  · rcases execute_cases s with ⟨_, e⟩ | ⟨_, _, _, _, _, e⟩ <;> exact ⟨_, e⟩
  · exact ⟨_, rfl⟩

/-- A poll that reads BUSY = 0 is what the statement asks of the end of `WAIT`. -/
theorem polled_of_idle {t : State} {rest : List Turn} (hb : t.status.busy = false) :
    (t.polled rest).script = rest ∧ (t.polled rest).status.busy = false ∧
      ∃ before v, (t.polled rest).replies = before ++ [.reg v] ∧ v.getLsbD 0 = false :=
  ⟨rfl, hb, _, _, rfl, (statusWord_bit_zero _).trans hb⟩

/-- Settles O53. -/
theorem waitEndsIdle : Obligations.WaitEndsIdle := by
  intro s rest hs
  cases hb : s.status.busy with
  | false => exact ⟨1, _, by decide, run_wait_idle hs hb, polled_of_idle hb⟩
  | true =>
    obtain ⟨t, ht⟩ := exists_engineTurn (s.polled (.wait :: rest))
    obtain ⟨_, _, _, _, _, _, _, hbusy, _⟩ := engineTurn_frame ht
    exact ⟨3, _, by decide, run_wait_busy hs hb ht, polled_of_idle hbusy⟩

end Sys2Proof.Machine
end

section
/-! PROOFS. `PLANAR2CHUNKY` (`30_encoding.md` R104): what `DEINT` and `EXPAND` leave at a pixel, the run of a block of lines, and
the two blocks of the pseudo-instruction. -/

namespace Sys2Proof.Machine

open Sys2Proof.Spec

/-! ## The bytes of a pixel after `DEINT` and after `EXPAND` -/

/-- Bit `bit` of byte `j` of a value is its bit `8 * j + bit` (`20_memory.md` R60). -/
theorem getLsbD_byte (v j : Nat) {bit : Nat} (hbit : bit < 8) :
    (BitVec.ofNat 8 (v / 256 ^ j)).getLsbD bit = v.testBit (8 * j + bit) := by
  rw [BitVec.getLsbD_ofNat, decide_eq_true hbit, Bool.true_and, show 256 = 2 ^ 8 from rfl, ← Nat.pow_mul,
    Nat.testBit_div_two_pow, Nat.add_comm]

theorem le_deintStride (x : OpRegs) : x.w.toNat * bpp x.npl.toNat ≤ x.deintStride := Nat.le_add_right _ _

/-- Bit `bit` of byte `j` of the pixel that `DEINT` writes at (x, y) is the sample of plane `8 * j + bit` (`40_planar.md` R126,
R127, R129). -/
theorem readByte_deint (s : State) {x y j bit : Nat} (hn : s.x.npl.toNat ≠ 0) (hx : x < s.x.w.toNat) (hy : y < s.x.h.toNat)
    (hj : j < bpp s.x.npl.toNat) (hbit : bit < 8) :
    ((s.setMem (familyMem .deint s)).readByte
        (s.x.chb.toNat + y * s.x.deintStride + x * bpp s.x.npl.toNat + j)).getLsbD bit
      = (decide (8 * j + bit < s.x.npl.toNat) && s.planeBit (8 * j + bit) x y) := by
  rw [familyMem, if_neg hn, State.readByte_storeImage_same _ _ _ (le_deintStride s.x) hx hy hj, getLsbD_byte _ _ hbit,
    State.deintPixel, accumulate_testBit]

/-- Byte `j` of the pixel that `EXPAND` writes at (x, y) is that byte of the pixel at (x / SX, y / SY)
(`41_chunky_fill_expand.md` R146). -/
theorem readByte_expand (s : State) {b x y j : Nat} (hx : x < s.x.w.toNat) (hy : y < s.x.h.toNat) (hj : j < b) :
    (s.setMem (familyMem (.expand b) s)).readByte (s.x.chb.toNat + y * (s.x.w.toNat * b) + x * b + j)
      = s.readByte (s.x.chb.toNat + y / s.x.sy.toNat * (s.x.w.toNat * b) + x / s.x.sx.toNat * b + j) := by
  rw [familyMem, State.readByte_storeImage_same _ _ _ (Nat.le_refl _) hx hy hj, State.expandPixel, State.memRead_byte _ _ hj,
    pixAddr]

/-! ## A block of lines: operand registers, a command, `WAIT` -/

/-- The operand registers after a list of writes, in order (`10_state.md` R25). -/
def OpRegs.setAll (x : OpRegs) (ws : List (OpReg × Nat)) : OpRegs := ws.foldl (fun x p => x.set p.1 (BitVec.ofNat 32 p.2)) x

/-- The state after these writes to operand registers. -/
def State.withRegs (s : State) (ws : List (OpReg × Nat)) : State := { s with x := s.x.setAll ws }

/-- `WR` lines, a command and `WAIT` (`30_encoding.md` R102). -/
def commandBlock (ws : List (OpReg × Nat)) (i : Instr) : List Line := ws.map (fun p => wrOp p.1 p.2) ++ [.command i, .wait]

theorem scriptTurns_append (l m : List Line) : scriptTurns (l ++ m) = scriptTurns l ++ scriptTurns m := List.flatMap_append

theorem writeOperand_of_idle {s : State} (hb : s.status.busy = false) (r : OpReg) (v : Word) :
    s.writeOperand r v = { s with x := s.x.set r v } := by
  simp only [State.writeOperand, hb, Bool.false_eq_true, if_false]

/-- `WR` lines of an idle PDI store their values. -/
theorem reaches_wrOps {rest : List Turn} (ws : List (OpReg × Nat)) : ∀ {s : State}, s.status.busy = false →
    s.script = scriptTurns (ws.map (fun p => wrOp p.1 p.2)) ++ rest → Reaches s { s.withRegs ws with script := rest } := by
  induction ws with
  | nil =>
    rintro s _ rfl
    exact Reaches.refl s
  | cons p ws ih =>
    intro s hb hs
    refine Reaches.head (step_regWrite hs (regAt_operand p.1)) ?_
    rw [State.writeReg, writeOperand_of_idle (by exact hb)]
    exact ih hb rfl

/-- The state at the command of a block: the registers are written, and the command, `WAIT` and `rest` are to come. -/
def State.ready (s : State) (ws : List (OpReg × Nat)) (i : Instr) (rest : List Turn) : State :=
  { s.withRegs ws with script := scriptTurns [.command i, .wait] ++ rest }

/-- The state in which the engine has its turn on a command that was written to `CMD` and polled once by `WAIT`. -/
def State.running (s : State) (i : Instr) (rest : List Turn) : State :=
  ({ s with script := .wait :: rest }.accept (encode i)).polled (.wait :: rest)

/-- A command and `WAIT` on a PDI that accepts run the command to its end (`30_encoding.md` R102). -/
theorem reaches_of_exec {s t : State} {i : Instr} {rest : List Turn} (hi : i.wellFormed = true) (hb : s.status.busy = false)
    (he : s.status.err = false) (hs : s.script = scriptTurns [.command i, .wait] ++ rest)
    (ht : exec i (s.running i rest) = .next t) : Reaches s (t.polled rest) := by
  obtain ⟨_, hcmd⟩ := cmdWriteAcceptsOrDrops
  obtain ⟨haccepted, _⟩ := hcmd s (encode i) (.wait :: rest)
  have hturn : engineTurn (s.running i rest) = .next t := (engineTurn_of_busy rfl (decode_encode hi)).trans ht
  exact Reaches.head (haccepted hs hb he) ⟨3, run_wait_busy rfl rfl hturn⟩

/-- `u` is `s` with these writes made: the state a block's command runs in, whatever its flags, latch and script are. -/
structure Loaded (s : State) (ws : List (OpReg × Nat)) (u : State) : Prop where
  regs : u.x = s.x.setAll ws
  cfg : u.cfg = s.cfg
  bytes : ∀ a, u.readByte a = s.readByte a

/-- A block whose command passes its checks ends with the registers written, DONE set and the bytes that the command writes. -/
theorem exists_reaches_block {s : State} {i : Instr} {ws : List (OpReg × Nat)} {rest : List Turn} (hi : i.wellFormed = true)
    (hb : s.status.busy = false) (he : s.status.err = false) (hs : s.script = scriptTurns (commandBlock ws i) ++ rest)
    (hpass : ∀ u, Loaded s ws u → firstFault (familyChecks (family i) u) = none) :
    ∃ u t, Loaded s ws u ∧ Reaches s t ∧ t.x = u.x ∧ t.cfg = u.cfg ∧ t.script = rest ∧
      t.status = { s.status with busy := false, done := true } ∧
      ∀ a, t.readByte a = (u.setMem (familyMem (family i) u)).readByte a := by
  have hready : Reaches s (s.ready ws i rest) :=
    reaches_wrOps ws hb (by rw [hs, commandBlock, scriptTurns_append, List.append_assoc])
  have hloaded : Loaded s ws ((s.ready ws i rest).running i rest) := ⟨rfl, rfl, fun _ => rfl⟩
  have hexec := (exec_eq_runCommand i _).trans (runCommand_of_pass (hpass _ hloaded))
  exact ⟨_, _, hloaded, hready.trans (reaches_of_exec hi hb he rfl hexec), rfl, rfl, rfl, rfl, fun _ => rfl⟩

/-! ## The two blocks of `PLANAR2CHUNKY` -/

section Blocks
variable {plb chb w h npl sx sy : Nat}

/-- The arguments of `PLANAR2CHUNKY` suit the parameters: each dimension at least 1 and, scaled, at most MAXDIM, the planes and
the scaled bitmap inside MEM and apart. -/
structure Suited (p : Params) (plb chb w h npl sx sy : Nat) : Prop where
  memSize : p.memSize < 2 ^ 32
  maxDim : p.maxDim < 2 ^ 16
  npl_pos : 1 ≤ npl
  npl_le : npl ≤ 31
  w_pos : 1 ≤ w
  h_pos : 1 ≤ h
  sx_pos : 1 ≤ sx
  sy_pos : 1 ≤ sy
  width : w * sx ≤ p.maxDim
  height : h * sy ≤ p.maxDim
  planes : plb + ppitch w * h * max npl 8 ≤ p.memSize
  pixels : chb + w * sx * (h * sy) * bpp npl ≤ p.memSize
  apart : ¬Overlap (chb, w * sx * (h * sy) * bpp npl) (plb, ppitch w * h * max npl 8)

theorem bpp_le (n : Nat) : bpp n ≤ 4 := by
  unfold bpp
  split_ifs <;> decide

theorem toNat_ofNat_word {n : Nat} (hn : n < 2 ^ 32) : (BitVec.ofNat 32 n).toNat = n := by
  rw [BitVec.toNat_ofNat, Nat.mod_eq_of_lt hn]

/-- The registers that the first block writes: the planes, and rows of the scaled pitch (`30_encoding.md` R104). -/
def deintWrites (plb chb w h npl sx : Nat) : List (OpReg × Nat) :=
  [(.plb, plb), (.chb, chb), (.w, w), (.h, h), (.npl, npl), (.xtra, w * bpp npl * (sx - 1))]

/-- The registers that the second block writes (`30_encoding.md` R104). -/
def expandWrites (w h sx sy : Nat) : List (OpReg × Nat) := [(.w, w * sx), (.h, h * sy), (.sx, sx), (.sy, sy)]

theorem planar2chunky_eq_blocks (plb chb w h npl sx sy : Nat) :
    planar2chunky plb chb w h npl sx sy
      = commandBlock (deintWrites plb chb w h npl sx) .deint
        ++ (if sx ≠ 1 ∨ sy ≠ 1 then commandBlock (expandWrites w h sx sy) (expandOf (bpp npl)) else []) := rfl

/-- The registers hold the values of the first block, and `DEINT`'s rows have the scaled pitch. -/
structure DeintRegs (x : OpRegs) (plb chb w h npl sx : Nat) : Prop where
  stride : x.deintStride = w * sx * bpp npl
  plb : x.plb.toNat = plb
  chb : x.chb.toNat = chb
  w : x.w.toNat = w
  h : x.h.toNat = h
  npl : x.npl.toNat = npl

theorem Suited.w_le {p : Params} (hp : Suited p plb chb w h npl sx sy) : w ≤ w * sx := Nat.le_mul_of_pos_right w hp.sx_pos

theorem Suited.h_le {p : Params} (hp : Suited p plb chb w h npl sx sy) : h ≤ h * sy := Nat.le_mul_of_pos_right h hp.sy_pos

theorem Suited.deintRegs {p : Params} (hp : Suited p plb chb w h npl sx sy) (x : OpRegs) :
    DeintRegs (x.setAll (deintWrites plb chb w h npl sx)) plb chb w h npl sx := by
  have hmem := hp.memSize
  have hdim := hp.maxDim
  have hw := hp.w_le.trans hp.width
  have hh := hp.h_le.trans hp.height
  have hplb : (BitVec.ofNat 32 plb).toNat = plb := toNat_ofNat_word (by have := hp.planes; omega)
  have hchb : (BitVec.ofNat 32 chb).toNat = chb := toNat_ofNat_word (by have := hp.pixels; omega)
  have hw : (BitVec.ofNat 32 w).toNat = w := toNat_ofNat_word (by omega)
  have hh : (BitVec.ofNat 32 h).toNat = h := toNat_ofNat_word (by omega)
  have hnpl : (BitVec.ofNat 32 npl).toNat = npl := toNat_ofNat_word (by have := hp.npl_le; omega)
  have hrow : w * bpp npl + w * bpp npl * (sx - 1) = w * sx * bpp npl := by
    obtain ⟨k, rfl⟩ := Nat.exists_eq_add_of_le hp.sx_pos
    rw [Nat.add_sub_cancel_left]
    ring
  have hscaled : w * sx * bpp npl ≤ 2 ^ 16 * 4 := Nat.mul_le_mul (by have := hp.width; omega) (bpp_le npl)
  have hxtra : (BitVec.ofNat 32 (w * bpp npl * (sx - 1))).toNat = w * bpp npl * (sx - 1) := toNat_ofNat_word (by omega)
  refine ⟨?_, hplb, hchb, hw, hh, hnpl⟩
  show (BitVec.ofNat 32 w).toNat * bpp (BitVec.ofNat 32 npl).toNat + (BitVec.ofNat 32 (w * bpp npl * (sx - 1))).toNat = _
  rw [hw, hnpl, hxtra, hrow]

/-- `DEINT`'s destination, without the rows below the source's, lies in the scaled bitmap. -/
theorem Suited.ddx_len_le {p : Params} (hp : Suited p plb chb w h npl sx sy) :
    h * (w * sx * bpp npl) ≤ w * sx * (h * sy) * bpp npl := by
  calc h * (w * sx * bpp npl) ≤ h * sy * (w * sx * bpp npl) := Nat.mul_le_mul_right _ hp.h_le
    _ = w * sx * (h * sy) * bpp npl := by ring

theorem Suited.deint_pass {u : State} (hp : Suited u.cfg plb chb w h npl sx sy) (hx : DeintRegs u.x plb chb w h npl sx) :
    firstFault (familyChecks .deint u) = none := by
  have hn : u.x.npl.toNat ≠ 0 := by rw [hx.npl]; exact Nat.ne_of_gt hp.npl_pos
  have hlen := hp.ddx_len_le
  have happart := hp.apart
  have hw := hp.w_le.trans hp.width
  have hh := hp.h_le.trans hp.height
  have hpixels := hp.pixels
  simp only [Overlap] at happart
  rw [familyChecks, if_neg hn]
  simp only [deintChecks, firstFault_cons_eq_none, checkPlanes_eq_none, checkDim_eq_none,
    checkFits_eq_none, checkApart_eq_none, OpRegs.plx, OpRegs.ddx, OpRegs.planeSize, hx.plb, hx.chb, hx.w, hx.h, hx.npl,
    hx.stride]
  refine ⟨hp.npl_le, ⟨Nat.ne_of_gt hp.w_pos, Nat.ne_of_gt hp.h_pos, hw, hh⟩, hp.planes, ?_, ?_, rfl⟩ <;> omega

/-- The rows that `DEINT` writes lie in the scaled bitmap. -/
theorem Suited.within_of_deint_writes {u : State} (hp : Suited u.cfg plb chb w h npl sx sy)
    (hx : DeintRegs u.x plb chb w h npl sx) {a : Nat} (ha : writes .deint u a) :
    Within a (chb, w * sx * (h * sy) * bpp npl) := by
  obtain ⟨_, y, hy, hrow⟩ := ha
  rw [show destStride u = u.x.deintStride from rfl, show pixelWidth u.x.npl.toNat = bpp u.x.npl.toNat from rfl, hx.stride, hx.chb,
    hx.w, hx.npl] at hrow
  rw [hx.h] at hy
  have hlen := hp.ddx_len_le
  have hlast : (y + 1) * (w * sx * bpp npl) ≤ h * (w * sx * bpp npl) := Nat.mul_le_mul_right _ hy
  have hwidth : w * bpp npl ≤ w * sx * bpp npl := Nat.mul_le_mul_right _ hp.w_le
  rw [Nat.add_mul, Nat.one_mul] at hlast
  simp only [Within] at hrow ⊢
  omega

/-- Byte `j` of pixel (x, y) of the scaled bitmap (`20_memory.md` R63), by rows and by pixel numbers. -/
theorem pixelByte_eq (chb width b x y j : Nat) :
    chb + (y * width + x) * b + j = chb + y * (width * b) + x * b + j := by ring

/-- The first block leaves the samples of the planes in the top-left of the scaled bitmap. -/
theorem Suited.exists_deinterleaved {s : State} {rest : List Turn} (hp : Suited s.cfg plb chb w h npl sx sy)
    (hb : s.status.busy = false) (he : s.status.err = false)
    (hs : s.script = scriptTurns (commandBlock (deintWrites plb chb w h npl sx) .deint) ++ rest) :
    ∃ t, Reaches s t ∧ t.cfg = s.cfg ∧ t.x.chb.toNat = chb ∧ t.script = rest ∧
      t.status = { s.status with busy := false, done := true } ∧
      (∀ x y j bit, x < w → y < h → j < bpp npl → bit < 8 →
        (t.readByte (chb + (y * (w * sx) + x) * bpp npl + j)).getLsbD bit
          = (decide (8 * j + bit < npl) &&
              (s.readByte (plb + (8 * j + bit) * (ppitch w * h) + y * ppitch w + x / 8)).getLsbD (7 - x % 8))) ∧
      (∀ a, ¬Within a (chb, w * sx * (h * sy) * bpp npl) → t.readByte a = s.readByte a) := by
  have hregs {u : State} (hu : Loaded s (deintWrites plb chb w h npl sx) u) : DeintRegs u.x plb chb w h npl sx := by
    rw [hu.regs]
    exact hp.deintRegs s.x
  have hsuited {u : State} (hu : Loaded s (deintWrites plb chb w h npl sx) u) : Suited u.cfg plb chb w h npl sx sy := by
    rwa [hu.cfg]
  obtain ⟨u, t, hu, hreach, htx, htcfg, htscript, htstatus, htbytes⟩ :=
    exists_reaches_block (i := .deint) rfl hb he hs (fun u hu => (hsuited hu).deint_pass (hregs hu))
  rw [show family .deint = .deint from rfl] at htbytes
  have hx := hregs hu
  refine ⟨t, hreach, htcfg.trans hu.cfg, by rw [htx, hx.chb], htscript, htstatus, ?_, fun a ha => ?_⟩
  · intro x y j bit hxw hyh hj hbit
    have hpixel := readByte_deint u (x := x) (y := y) (j := j) (bit := bit) (by rw [hx.npl]; exact Nat.ne_of_gt hp.npl_pos)
      (by rwa [hx.w]) (by rwa [hx.h]) (by rwa [hx.npl]) hbit
    rw [hx.chb, hx.stride, hx.npl, State.planeBit, OpRegs.planeAddr, OpRegs.planeSize, hx.plb, hx.w, hx.h, hu.bytes] at hpixel
    rw [htbytes, pixelByte_eq]
    exact hpixel
  · rw [htbytes, familyMem_outside (fun hw => ha ((hsuited hu).within_of_deint_writes hx hw)), hu.bytes]

theorem wellFormed_expandOf (b : Nat) : (expandOf b).wellFormed = true := by
  unfold expandOf
  split_ifs <;> rfl

theorem family_expandOf_bpp (n : Nat) : family (expandOf (bpp n)) = .expand (bpp n) := by
  unfold bpp
  split_ifs <;> rfl

/-- The registers hold the values of the second block. -/
structure ExpandRegs (x : OpRegs) (chb w h sx sy : Nat) : Prop where
  chb : x.chb.toNat = chb
  w : x.w.toNat = w
  h : x.h.toNat = h
  sx : x.sx.toNat = sx
  sy : x.sy.toNat = sy

theorem Suited.expandRegs {p : Params} (hp : Suited p plb chb w h npl sx sy) {x : OpRegs} (hchb : x.chb.toNat = chb) :
    ExpandRegs (x.setAll (expandWrites w h sx sy)) chb (w * sx) (h * sy) sx sy := by
  have hdim := hp.maxDim
  have hw := hp.width
  have hh := hp.height
  have hsx : sx ≤ w * sx := Nat.le_mul_of_pos_left sx hp.w_pos
  have hsy : sy ≤ h * sy := Nat.le_mul_of_pos_left sy hp.h_pos
  exact ⟨hchb, toNat_ofNat_word (by omega), toNat_ofNat_word (by omega), toNat_ofNat_word (by omega),
    toNat_ofNat_word (by omega)⟩

theorem Suited.expand_pass {u : State} (hp : Suited u.cfg plb chb w h npl sx sy)
    (hx : ExpandRegs u.x chb (w * sx) (h * sy) sx sy) : firstFault (familyChecks (.expand (bpp npl)) u) = none := by
  have hw := hp.w_pos.trans hp.w_le
  have hh := hp.h_pos.trans hp.h_le
  simp only [familyChecks, expandChecks, firstFault_cons_eq_none, checkDim_eq_none, checkScale_eq_none, checkFits_eq_none,
    OpRegs.cx, hx.chb, hx.w, hx.h, hx.sx, hx.sy]
  exact ⟨⟨Nat.ne_of_gt hw, Nat.ne_of_gt hh, hp.width, hp.height⟩,
    ⟨Nat.ne_of_gt hp.sx_pos, Nat.ne_of_gt hp.sy_pos, Nat.mul_mod_left _ _, Nat.mul_mod_left _ _⟩, hp.pixels, rfl⟩

/-- The second block, which is absent where both factors are 1, copies each pixel to its SX by SY block. -/
theorem Suited.exists_expanded {s : State} (hp : Suited s.cfg plb chb w h npl sx sy) (hchb : s.x.chb.toNat = chb)
    (hb : s.status.busy = false) (hd : s.status.done = true) (he : s.status.err = false)
    (hs : s.script = scriptTurns
      (if sx ≠ 1 ∨ sy ≠ 1 then commandBlock (expandWrites w h sx sy) (expandOf (bpp npl)) else [])) :
    ∃ t, Reaches s t ∧ t.script = [] ∧ t.status = s.status ∧
      (∀ x y j, x < w * sx → y < h * sy → j < bpp npl →
        t.readByte (chb + (y * (w * sx) + x) * bpp npl + j)
          = s.readByte (chb + (y / sy * (w * sx) + x / sx) * bpp npl + j)) ∧
      (∀ a, ¬Within a (chb, w * sx * (h * sy) * bpp npl) → t.readByte a = s.readByte a) := by
  have hstatus : { s.status with busy := false, done := true } = s.status := by rw [← hb, ← hd]
  by_cases hscaled : sx ≠ 1 ∨ sy ≠ 1
  case neg =>
    obtain ⟨rfl, rfl⟩ : sx = 1 ∧ sy = 1 := by omega
    refine ⟨s, Reaches.refl s, hs, rfl, fun x y j _ _ _ => ?_, fun _ _ => rfl⟩
    rw [Nat.div_one, Nat.div_one]
  case pos =>
    rw [if_pos hscaled, ← List.append_nil (scriptTurns _)] at hs
    have hregs {u : State} (hu : Loaded s (expandWrites w h sx sy) u) : ExpandRegs u.x chb (w * sx) (h * sy) sx sy := by
      rw [hu.regs]
      exact hp.expandRegs hchb
    have hpass (u : State) (hu : Loaded s (expandWrites w h sx sy) u) :
        firstFault (familyChecks (family (expandOf (bpp npl))) u) = none := by
      rw [family_expandOf_bpp]
      exact Suited.expand_pass (by rwa [hu.cfg]) (hregs hu)
    obtain ⟨u, t, hu, hreach, _, _, htscript, htstatus, htbytes⟩ :=
      exists_reaches_block (wellFormed_expandOf _) hb he hs hpass
    rw [family_expandOf_bpp] at htbytes
    have hx := hregs hu
    refine ⟨t, hreach, htscript, htstatus.trans hstatus, fun x y j hxw hyh hj => ?_, fun a ha => ?_⟩
    · have hpixel := readByte_expand u (b := bpp npl) (x := x) (y := y) (j := j) (by rwa [hx.w]) (by rwa [hx.h]) hj
      rw [hx.chb, hx.w, hx.sx, hx.sy, hu.bytes] at hpixel
      rw [htbytes, pixelByte_eq, pixelByte_eq]
      exact hpixel
    · have hout : ¬writes (.expand (bpp npl)) u a := by
        show ¬Within a (u.x.chb.toNat, u.x.w.toNat * u.x.h.toNat * bpp npl)
        rwa [hx.chb, hx.w, hx.h]
      rw [htbytes, familyMem_outside hout, hu.bytes]

end Blocks

/-- The bounds on MEMSIZE and MAXDIM (`00_scope.md` R6). -/
theorem sizes_of_legal {p : Params} (h : p.legal = true) : p.memSize < 2 ^ 32 ∧ p.maxDim < 2 ^ 16 := by
  simp only [Params.legal, Bool.and_eq_true, decide_eq_true_eq] at h
  obtain ⟨⟨⟨⟨_, hmem⟩, _⟩, hdim⟩, _⟩ := h
  omega

/-- Settles O54: the first block leaves the image at its own size, and the second one, if any, scales it. -/
theorem planarToChunkyScalesTheImage : Obligations.PlanarToChunkyScalesTheImage := by
  intro s plb chb w h npl sx sy b planes pixels hlegal hb he hs hnpl hnpl' hw hh hsx hsy hwidth hheight hplanes hpixels hapart
  obtain ⟨hmem, hdim⟩ := sizes_of_legal hlegal
  have hp : Suited s.cfg plb chb w h npl sx sy :=
    ⟨hmem, hdim, hnpl, hnpl', hw, hh, hsx, hsy, hwidth, hheight, hplanes, hpixels, hapart⟩
  rw [planar2chunky_eq_blocks, scriptTurns_append] at hs
  obtain ⟨m, hsm, hmcfg, hmchb, hmscript, hmstatus, hmpixels, hmframe⟩ := hp.exists_deinterleaved hb he hs
  obtain ⟨t, hmt, htscript, htstatus, htpixels, htframe⟩ :=
    Suited.exists_expanded (by rwa [hmcfg]) hmchb (by rw [hmstatus]) (by rw [hmstatus]) (by rw [hmstatus]; exact he) hmscript
  obtain ⟨n, hrun⟩ := hsm.trans hmt
  refine ⟨n, t, hrun, htscript, by simp only [htstatus, hmstatus, he], fun x y j bit hx hy hj hbit => ?_, fun a ha => ?_⟩
  · have hx' : x / sx < w := Nat.div_lt_of_lt_mul (Nat.mul_comm w sx ▸ hx)
    have hy' : y / sy < h := Nat.div_lt_of_lt_mul (Nat.mul_comm h sy ▸ hy)
    exact (congrArg (·.getLsbD bit) (htpixels x y j hx hy hj)).trans (hmpixels _ _ j bit hx' hy' hj hbit)
  · rw [htframe a ha, hmframe a ha]

end Sys2Proof.Machine
end

section
/-! PROOFS. The planar commands PLCLR, FILLP and DEINT (`40_planar.md`): the checks pass on operands in range, and each command
leaves what its rule says at every byte of its extent. -/

namespace Sys2Proof.Machine

open Sys2Proof.Spec

/-! ## Checks of the model and conditions of the statements -/

theorem checkDim_eq_none_iff_dimsOk (s : State) : checkDim s = none ↔ DimsOk s := by
  rw [checkDim_eq_none, DimsOk]
  omega

theorem checkApart_eq_none_iff_not_overlap (e f : Extent) :
    checkApart e f = none ↔ ¬Overlap (e.base, e.len) (f.base, f.len) := by
  rw [checkApart, failIf_eq_none, Bool.eq_false_iff, Ne, Extent.overlaps_iff, Overlap]

theorem firstFault_plclr_eq_none {s : State} (hn : s.x.npl.toNat ≤ 31) (hd : DimsOk s) (hp : InMem s (plxRange s)) :
    firstFault (familyChecks .plclr s) = none := by
  simp only [familyChecks, plclrChecks, firstFault_cons_eq_none, checkPlanes_eq_none, checkDim_eq_none_iff_dimsOk,
    checkFits_eq_none]
  exact ⟨hn, hd, hp, rfl⟩

theorem firstFault_fillp_eq_none {s : State} {plane : Nat} {set : Bool} (hn : s.x.npl.toNat ≤ 31)
    (hplane : plane < s.x.npl.toNat) (hd : DimsOk s) (hp : InMem s (plxRange s)) :
    firstFault (familyChecks (.fillp plane set) s) = none := by
  simp only [familyChecks, fillpChecks, firstFault_cons_eq_none, checkPlanes_eq_none, checkPlane_eq_none,
    checkDim_eq_none_iff_dimsOk, checkFits_eq_none]
  exact ⟨hn, hplane, hd, hp, rfl⟩

/-- What `Placed` asks of `DEINT` with planes: the two extents fit and are apart (`20_memory.md` R69 to R71). -/
theorem placed_deint_iff {s : State} (hn : s.x.npl.toNat ≠ 0) :
    Placed .deint s ↔ InMem s (plxRange s) ∧ InMem s (ddxRange s) ∧ ¬Overlap (ddxRange s) (plxRange s) := by
  simp [Placed, checkedRanges, testedPairs, hn, and_assoc]

theorem firstFault_deint_eq_none {s : State} (hn : s.x.npl.toNat ≠ 0) (hn' : s.x.npl.toNat ≤ 31) (hd : DimsOk s)
    (hp : Placed .deint s) : firstFault (familyChecks .deint s) = none := by
  obtain ⟨hplx, hddx, hapart⟩ := (placed_deint_iff hn).1 hp
  simp only [familyChecks, if_neg hn, deintChecks, firstFault_cons_eq_none, checkPlanes_eq_none, checkDim_eq_none_iff_dimsOk,
    checkFits_eq_none, checkApart_eq_none_iff_not_overlap]
  exact ⟨hn', hd, hplx, hddx, hapart, rfl⟩

/-! ## Completion -/

/-- A command other than `NEAREST` that passes its checks completes with the MEM of its family, `RES` unchanged. -/
theorem exists_completed_of_pass {i : Instr} {s : State} (hi : family i ≠ .nearest)
    (hpass : firstFault (familyChecks (family i) s) = none) :
    ∃ t, exec i s = .next t ∧ Completed s t ∧ t.res = s.res ∧
      ∀ a, t.readByte a = (s.setMem (familyMem (family i) s)).readByte a :=
  ⟨_, (exec_eq_runCommand i s).trans (runCommand_of_pass hpass), rfl, familyRes_other hi s, fun _ => rfl⟩

/-- A completion changes neither the operand registers nor the parameters, so the conditions on operands still hold. -/
theorem operands_of_completed {s t : State} (h : Completed s t) :
    t.x = s.x ∧ (DimsOk s → DimsOk t) ∧ (Placed .deint s → Placed .deint t) := by
  rw [Completed] at h
  rw [h]
  exact ⟨rfl, id, id⟩

/-! ## PLCLR and FILLP -/

/-- A run of one byte repeated reads as that byte everywhere. -/
theorem readByte_storeBytes_replicate (s : State) {base n a : Nat} (b : Byte) (ha : Within a (base, n)) :
    (s.setMem (s.mem.storeBytes base (List.replicate n b))).readByte a = b := by
  obtain ⟨hlow, hhigh⟩ := ha
  obtain ⟨k, rfl⟩ := Nat.exists_eq_add_of_le hlow
  rw [State.readByte_storeBytes_same _ _ _ (by rw [List.length_replicate]; omega), List.getElem_replicate]

/-- Settles O12: `PLCLR` writes a run of zero bytes over `PLX`. -/
theorem plclrZeroesTheBuffer : Obligations.PlclrZeroesTheBuffer := by
  intro s hn hd hp
  obtain ⟨t, he, hc, hres, hbytes⟩ :=
    exists_completed_of_pass (i := .plclr) (by decide) (firstFault_plclr_eq_none hn hd hp)
  refine ⟨t, he, hc, hres, fun a ha => ?_, fun a ha => ?_⟩
  · exact (hbytes a).trans (readByte_storeBytes_replicate s 0x00 ha)
  · exact (hbytes a).trans (familyMem_outside (f := .plclr) ha)

/-- Settles O13: `FILLP` writes a run of equal bytes over its plane. -/
theorem fillpFillsOnePlane : Obligations.FillpFillsOnePlane := by
  intro s plane set hn hplane hd hp
  obtain ⟨t, he, hc, hres, hbytes⟩ :=
    exists_completed_of_pass (i := .fillp plane set) nofun (firstFault_fillp_eq_none hn hplane hd hp)
  refine ⟨t, he, hc, hres, fun a ha => ?_, fun a ha => ?_⟩
  · exact (hbytes a).trans (readByte_storeBytes_replicate s _ ha)
  · exact (hbytes a).trans (familyMem_outside (f := .fillp plane set) ha)

/-! ## DEINT -/

/-- Settles O14: the pixels by `readByte_deint`, the rest by the frame of the family. -/
theorem deintPacksThePlanes : Obligations.DeintPacksThePlanes := by
  intro s hn hn' hd hp
  have hn0 : s.x.npl.toNat ≠ 0 := Nat.ne_of_gt hn
  obtain ⟨t, he, hc, hres, hbytes⟩ :=
    exists_completed_of_pass (i := .deint) (by decide) (firstFault_deint_eq_none hn0 hn' hd hp)
  refine ⟨t, he, hc, hres, fun x y j bit hx hy hj hbit => ?_, fun a ha => ?_⟩
  · rw [hbytes]
    exact readByte_deint s hn0 hx hy hj hbit
  · rw [hbytes]
    exact familyMem_outside (f := .deint) (fun ⟨_, y, hy, hrow⟩ => ha y hy hrow)

/-- With at most 8 planes a pixel is one byte, and its bit k is plane k's sample (`40_planar.md` R126, R127). -/
theorem exists_deint_byte {s : State} (hn : 1 ≤ s.x.npl.toNat) (hn' : s.x.npl.toNat ≤ 8) (hd : DimsOk s)
    (hp : Placed .deint s) :
    ∃ t, exec .deint s = .next t ∧ Completed s t ∧
      ∀ x y k, x < s.x.w.toNat → y < s.x.h.toNat → k < 8 →
        (t.readByte (s.x.chb.toNat + y * destStride s + x)).getLsbD k = (decide (k < s.x.npl.toNat) && sample s k x y) := by
  obtain ⟨t, he, hc, -, hpixels, -⟩ := deintPacksThePlanes s hn (by omega) hd hp
  have hb : pixelWidth s.x.npl.toNat = 1 := if_pos hn'
  refine ⟨t, he, hc, fun x y k hx hy hk => ?_⟩
  have hpixel := hpixels x y 0 k hx hy (by omega) hk
  rwa [hb, Nat.mul_one, Nat.add_zero, Nat.mul_zero, Nat.zero_add] at hpixel

/-- Settles O16: pixel 8g + j of a row has its samples in byte g of each plane's row, at bit 7 - j. -/
theorem deintIsAByteTranspose : Obligations.DeintIsAByteTranspose := by
  intro s hn hn' hd hp
  obtain ⟨t, he, hc, hpixels⟩ := exists_deint_byte hn hn' hd hp
  refine ⟨t, he, hc, fun g j k y hx hj hk hy => ?_⟩
  have hdiv : (8 * g + j) / 8 = g := by omega
  have hmod : (8 * g + j) % 8 = j := by omega
  rw [hpixels _ y k hx hy hk, sample, hdiv, hmod]
  by_cases hplane : k < s.x.npl.toNat <;> simp [hplane]

/-- Settles O15: no check after the plane count is made, and the effect is to change nothing (`40_planar.md` R130). -/
theorem deintOfNoPlanesIsANoOp : Obligations.DeintOfNoPlanesIsANoOp := by
  intro s hn
  have hpass : firstFault (familyChecks .deint s) = none := by
    rw [familyChecks, if_pos hn, firstFault_cons_eq_none, checkPlanes_eq_none]
    exact ⟨by omega, rfl⟩
  have heffect : familyEffect .deint s = s := by
    rw [familyEffect, familyMem, if_pos hn]
    rfl
  rw [exec_eq_runCommand, show family .deint = .deint from rfl, runCommand_of_pass hpass, heffect]
  rfl

/-! ## A filled plane -/

/-- Every bit of the byte that `FILLP` writes is SET (`40_planar.md` R123). -/
theorem getLsbD_fill (set : Bool) {i : Nat} (hi : i < 8) : (if set then 0xFF else 0x00 : Byte).getLsbD i = set := by
  cases set with
  | false => exact BitVec.getLsbD_zero
  | true => exact (BitVec.getLsbD_allOnes (v := 8)).trans (decide_eq_true hi)

/-- A byte whose bit 0 is SET and whose other bits are 0. -/
theorem eq_bit_of_getLsbD {v : Byte} {set : Bool} (h : ∀ k, k < 8 → v.getLsbD k = (decide (k < 1) && set)) :
    v = if set then 1 else 0 := by
  refine BitVec.eq_of_getLsbD_eq fun k hk => ?_
  rw [h k hk]
  cases set <;> simp [hk]

/-- Where every plane is filled with SET, every sample is SET. -/
theorem sample_of_filled {s : State} {set : Bool} {k x y : Nat}
    (hfilled : ∀ a, Within a (s.x.plb.toNat, planeBytes s * s.x.npl.toNat) → s.readByte a = if set then 0xFF else 0x00)
    (hk : k < s.x.npl.toNat) (hx : x < s.x.w.toNat) (hy : y < s.x.h.toNat) : sample s k x y = set := by
  have hbyte := hfilled _ (planeAddr_within hk hx hy)
  exact (congrArg (·.getLsbD (7 - x % 8)) hbyte).trans (getLsbD_fill set (by omega))

/-- Settles O17: every sample of the filled plane is SET, and it is the only bit of a pixel. -/
theorem filledPlaneDeinterleavesToItsBit : Obligations.FilledPlaneDeinterleavesToItsBit := by
  intro s set hn hd hp
  obtain ⟨hplx, -⟩ := (placed_deint_iff (by omega)).1 hp
  obtain ⟨t, het, hct, -, hfilled, -⟩ := fillpFillsOnePlane s 0 set (by omega) (by omega) hd hplx
  obtain ⟨hx, hdims, hplaced⟩ := operands_of_completed hct
  have hnt : t.x.npl.toNat = 1 := by rw [hx, hn]
  have hplane : (t.x.plb.toNat, planeBytes t * t.x.npl.toNat) = (s.x.plb.toNat + 0 * planeBytes s, planeBytes s) := by
    rw [hnt, Nat.mul_one, Nat.zero_mul, Nat.add_zero, planeBytes, hx, planeBytes]
  have hstride : destStride t = destStride s := by rw [destStride, hx, destStride]
  obtain ⟨u, heu, hcu, hpixels⟩ := exists_deint_byte (by omega) (by omega) (hdims hd) (hplaced hp)
  refine ⟨t, u, het, heu, hcu, fun x y hxw hyh => eq_bit_of_getLsbD fun k hk => ?_⟩
  rw [← hx] at hxw hyh
  rw [← hx, ← hstride, hpixels x y k hxw hyh hk, hnt]
  by_cases hk0 : k < 1
  · rw [sample_of_filled (fun a ha => hfilled a (hplane ▸ ha)) (by omega) hxw hyh]
  · simp only [hk0, decide_false, Bool.false_and]

end Sys2Proof.Machine
end

section
/-! PROOFS. The chunky commands SOLID and EXPAND (`41_chunky_fill_expand.md`): the pixels each command leaves, and the in-place
order of EXPAND. A bitmap is blocks of equal length one after another, as pixels of a row and as rows; spreading and copying in
place are said once for blocks. -/

namespace Sys2Proof.Machine

open Sys2Proof.Spec

/-! ## Blocks of equal length -/

/-- Division by the block length gives the number of the block. -/
theorem block_number {x len j : Nat} (hj : j < len) : (x * len + j) / len = x := by
  rw [Nat.mul_comm, Nat.mul_add_div (Nat.zero_lt_of_lt hj), Nat.div_eq_of_lt hj, Nat.add_zero]

/-- A byte of block `x` lies in the run of the blocks `m` .. `m + n - 1` exactly when `x` is one of them. -/
theorem within_blocks_iff (base : Nat) {x m n len j : Nat} (hj : j < len) :
    Within (base + x * len + j) (base + m * len, n * len) ↔ m ≤ x ∧ x < m + n := by
  have hlen : 0 < len := Nat.zero_lt_of_lt hj
  have hlow : m ≤ x ↔ m * len ≤ x * len + j := by rw [← Nat.le_div_iff_mul_le hlen, block_number hj]
  have hhigh : x < m + n ↔ x * len + j < m * len + n * len := by
    rw [← Nat.add_mul, ← Nat.div_lt_iff_lt_mul hlen, block_number hj]
  rw [hlow, hhigh, Within]
  omega

/-- `within_blocks_iff` for the run that begins with block 0. -/
theorem within_first_blocks_iff (base : Nat) {x n len j : Nat} (hj : j < len) :
    Within (base + x * len + j) (base, n * len) ↔ x < n := by
  simpa using within_blocks_iff base (m := 0) hj

theorem within_block_iff (base : Nat) {x m len j : Nat} (hj : j < len) :
    Within (base + x * len + j) (base + m * len, len) ↔ x = m := by
  have hrun := within_blocks_iff base (x := x) (m := m) (n := 1) hj
  rw [Nat.one_mul] at hrun
  rw [hrun]
  omega

theorem exists_block {base n len a : Nat} (ha : Within a (base, n * len)) :
    ∃ x j, x < n ∧ j < len ∧ a = base + x * len + j := by
  obtain ⟨hlow, hhigh⟩ := ha
  obtain ⟨k, rfl⟩ := Nat.exists_eq_add_of_le hlow
  have hk : k < n * len := by simpa using hhigh
  have hlen : 0 < len := Nat.pos_of_mul_pos_left (Nat.zero_lt_of_lt hk)
  have hdiv := Nat.div_add_mod' k len
  exact ⟨k / len, k % len, (Nat.div_lt_iff_lt_mul hlen).2 hk, Nat.mod_lt k hlen, by omega⟩

/-- Every address of a bitmap is byte `j` of some pixel (x, y) (`20_memory.md` R63). -/
theorem exists_pixel {base w h b a : Nat} (ha : Within a (base, w * h * b)) :
    ∃ x y j, x < w ∧ y < h ∧ j < b ∧ a = base + y * (w * b) + x * b + j := by
  obtain ⟨y, hy, hrow⟩ := exists_row ha
  obtain ⟨x, j, hx, hj, rfl⟩ := exists_block hrow
  exact ⟨x, y, j, hx, hy, hj, rfl⟩

/-- A pixel's bytes lie in its row. -/
theorem pixelByte_lt {w b x j : Nat} (hx : x < w) (hj : j < b) : x * b + j < w * b := by
  have hrow : (x + 1) * b ≤ w * b := Nat.mul_le_mul_right b hx
  rw [Nat.add_mul, Nat.one_mul] at hrow
  omega

/-! ## SOLID -/

theorem family_solid {i : Instr} {b : Nat} (hi : (i, b) ∈ [(Instr.solidB, 1), (Instr.solidH, 2), (Instr.solidW, 4)]) :
    family i = .solid b := by
  simp only [List.mem_cons, List.not_mem_nil, Prod.mk.injEq, or_false] at hi
  obtain ⟨rfl, rfl⟩ | ⟨rfl, rfl⟩ | ⟨rfl, rfl⟩ := hi <;> rfl

theorem firstFault_solid_eq_none {s : State} {b : Nat} (hd : DimsOk s) (hp : InMem s (cxRange s b)) :
    firstFault (familyChecks (.solid b) s) = none := by
  simp only [familyChecks, solidChecks, firstFault_cons_eq_none, checkDim_eq_none_iff_dimsOk, checkFits_eq_none]
  exact ⟨hd, hp, rfl⟩

/-- Byte `j` of a word, as `MemWrite` takes it (`20_memory.md` R60). -/
theorem ofNat_byte_toNat (v : Word) (j : Nat) : BitVec.ofNat 8 (v.toNat / 256 ^ j) = v.extractLsb' (8 * j) 8 := by
  rw [BitVec.extractLsb', Nat.shiftRight_eq_div_pow, Nat.pow_mul]

/-- Every pixel that `SOLID` writes holds the low bytes of `x[COLOR]` (`41_chunky_fill_expand.md` R142, R143). -/
theorem readByte_solid (s : State) {b x y j : Nat} (hx : x < s.x.w.toNat) (hy : y < s.x.h.toNat) (hj : j < b) :
    (s.setMem (familyMem (.solid b) s)).readByte (s.x.chb.toNat + y * (s.x.w.toNat * b) + x * b + j)
      = s.x.color.extractLsb' (8 * j) 8 := by
  rw [familyMem, State.readByte_storeImage_same _ _ _ (Nat.le_refl _) hx hy hj, ofNat_byte_toNat]

/-- Settles O18: the pixels by `readByte_solid`, the rest by the frame of the family. -/
theorem solidFillsEveryPixel : Obligations.SolidFillsEveryPixel := by
  intro s i b hi hd hp
  have hf := family_solid hi
  obtain ⟨t, he, hc, hres, hbytes⟩ :=
    exists_completed_of_pass (i := i) (hf ▸ nofun) (hf ▸ firstFault_solid_eq_none hd hp)
  rw [hf] at hbytes
  refine ⟨t, he, hc, hres, fun x y j hx hy hj => ?_, fun a ha => ?_⟩
  · rw [hbytes, pixelByte_eq]
    exact readByte_solid s hx hy hj
  · rw [hbytes]
    exact familyMem_outside (f := .solid b) ha

/-! ## EXPAND -/

theorem family_expand {i : Instr} {b : Nat} (hi : (i, b) ∈ [(Instr.expandB, 1), (Instr.expandH, 2), (Instr.expandW, 4)]) :
    family i = .expand b := by
  simp only [List.mem_cons, List.not_mem_nil, Prod.mk.injEq, or_false] at hi
  obtain ⟨rfl, rfl⟩ | ⟨rfl, rfl⟩ | ⟨rfl, rfl⟩ := hi <;> rfl

theorem checkScale_eq_none_iff_scaleOk (s : State) : checkScale s = none ↔ ScaleOk s := by
  simp only [checkScale_eq_none, ScaleOk, Nat.dvd_iff_mod_eq_zero]
  omega

theorem firstFault_expand_eq_none {s : State} {b : Nat} (hd : DimsOk s) (hscale : ScaleOk s)
    (hp : InMem s (cxRange s b)) : firstFault (familyChecks (.expand b) s) = none := by
  simp only [familyChecks, expandChecks, firstFault_cons_eq_none, checkDim_eq_none_iff_dimsOk,
    checkScale_eq_none_iff_scaleOk, checkFits_eq_none]
  exact ⟨hd, hscale, hp, rfl⟩

/-- Settles O20: the pixels by `readByte_expand`, the rest by the frame of the family. -/
theorem expandReplicatesPixels : Obligations.ExpandReplicatesPixels := by
  intro s i b hi hd hscale hp
  have hf := family_expand hi
  obtain ⟨t, he, hc, hres, hbytes⟩ :=
    exists_completed_of_pass (i := i) (hf ▸ nofun) (hf ▸ firstFault_expand_eq_none hd hscale hp)
  rw [hf] at hbytes
  refine ⟨t, he, hc, hres, fun x y j hx hy hj => ?_, fun a ha => ?_⟩
  · rw [hbytes]
    exact readByte_expand s hx hy hj
  · rw [hbytes]
    exact familyMem_outside (f := .expand b) ha

/-- Settles O22: with both factors 1 a pixel is its own source. -/
theorem expandByOneIsTheIdentity : Obligations.ExpandByOneIsTheIdentity := by
  intro s i b hi hd hsx hsy hp
  have hscale : ScaleOk s := ⟨hsx.ge, hsy.ge, hsx ▸ one_dvd _, hsy ▸ one_dvd _⟩
  obtain ⟨t, he, hc, hres, hpixels, hframe⟩ := expandReplicatesPixels s i b hi hd hscale hp
  refine ⟨t, he, hc, hres, fun a => ?_⟩
  by_cases ha : Within a (cxRange s b)
  · obtain ⟨x, y, j, hx, hy, hj, rfl⟩ := exists_pixel ha
    rw [hpixels x y j hx hy hj, hsx, hsy, Nat.div_one, Nat.div_one]
  · exact hframe a ha

/-! ## Copies of a block, written downwards -/

@[simp] theorem putDown_x (v : List Byte) (base b n : Nat) (s : State) : (putDown v base b n s).x = s.x := by
  induction n generalizing s with
  | zero => rfl
  | succ n ih => exact ih _

theorem readByte_putDown_outside {v : List Byte} {len : Nat} (hv : v.length = len) {base n a : Nat} (s : State)
    (ha : ¬Within a (base, n * len)) : (putDown v base len n s).readByte a = s.readByte a := by
  induction n generalizing s with
  | zero => rfl
  | succ n ih =>
    simp only [Within, Nat.succ_mul] at ha ih
    rw [putDown, ih _ (by omega)]
    refine readByte_storeBytes_outside s ?_
    simp only [Within, hv]
    omega

/-- Each copy of a block read in the state `u` holds the block's bytes. -/
theorem readByte_putDown_same (u s : State) (src base : Nat) {len n x j : Nat} (hx : x < n) (hj : j < len) :
    (putDown (u.readBytes src len) base len n s).readByte (base + x * len + j) = u.readByte (src + j) := by
  induction n generalizing s with
  | zero => exact absurd hx (Nat.not_lt_zero x)
  | succ n ih =>
    rw [putDown]
    rcases Nat.lt_succ_iff_lt_or_eq.1 hx with hlt | rfl
    · exact ih _ hlt
    · rw [readByte_putDown_outside (u.readBytes_length src len) _
          (by rw [within_first_blocks_iff base hj]; exact Nat.lt_irrefl x),
        putBytes, State.readByte_storeBytes_same _ _ _ (by simpa using hj), State.readBytes_getElem]

/-! ## Spreading a row in place -/

@[simp] theorem spreadRow_x (row b n : Nat) (s : State) : (spreadRow row b n s).x = s.x := by
  induction n generalizing s with
  | zero => rfl
  | succ n ih => rw [spreadRow, ih, putDown_x]

theorem readByte_spreadRow_outside {row b n a : Nat} (s : State) (ha : ¬Within a (row, n * s.x.sx.toNat * b)) :
    (spreadRow row b n s).readByte a = s.readByte a := by
  induction n generalizing s with
  | zero => rfl
  | succ n ih =>
    simp only [Within, Nat.succ_mul, Nat.add_mul] at ha ih
    rw [spreadRow, ih _ (by rw [putDown_x]; omega)]
    refine readByte_putDown_outside (s.readBytes_length _ b) s ?_
    simp only [Within]
    omega

/-- Right to left no source pixel is overwritten before it is read: its first copy stands at or after it. -/
theorem readByte_spreadRow_same {row b n x j : Nat} (s : State) (hsx : 1 ≤ s.x.sx.toNat) (hx : x < n * s.x.sx.toNat)
    (hj : j < b) : (spreadRow row b n s).readByte (row + x * b + j) = s.readByte (row + x / s.x.sx.toNat * b + j) := by
  induction n generalizing s with
  | zero => omega
  | succ n ih =>
    rw [Nat.succ_mul] at hx
    rw [spreadRow]
    by_cases hlt : x < n * s.x.sx.toNat
    · have hsrc : x / s.x.sx.toNat < n := (Nat.div_lt_iff_lt_mul hsx).2 hlt
      have hn : n ≤ n * s.x.sx.toNat := Nat.le_mul_of_pos_right n hsx
      rw [ih _ (by rwa [putDown_x]) (by rwa [putDown_x]), putDown_x]
      refine readByte_putDown_outside (s.readBytes_length _ b) s ?_
      rw [within_blocks_iff row hj]
      omega
    · obtain ⟨k, rfl⟩ := Nat.exists_eq_add_of_le (Nat.le_of_not_lt hlt)
      have hk : k < s.x.sx.toNat := by omega
      rw [readByte_spreadRow_outside _ (by rw [putDown_x, within_first_blocks_iff row hj]; exact hlt), block_number hk,
        Nat.add_mul, ← Nat.add_assoc row]
      exact readByte_putDown_same s s _ _ hk hj

/-! ## Copying a row downwards -/

@[simp] theorem copyRowDown_x (row dst len n : Nat) (s : State) : (copyRowDown row dst len n s).x = s.x := by
  induction n generalizing s with
  | zero => rfl
  | succ n ih => exact ih _

/-- Writing a block onto itself or behind its end leaves the block as it is. -/
theorem readBytes_putBytes_self (s : State) {row dst len : Nat} (h : dst = row ∨ row + len ≤ dst) :
    (putBytes s (s.readBytes row len) dst).readBytes row len = s.readBytes row len := by
  refine readBytes_congr fun j hj => ?_
  rcases h with rfl | h
  · rw [putBytes, State.readByte_storeBytes_same _ _ _ (by simpa using hj), State.readBytes_getElem]
  · refine readByte_storeBytes_outside s ?_
    simp only [Within]
    omega

/-- Where no copy falls on a part of the row, reading the row anew for every copy is reading it once. -/
theorem copyRowDown_eq_putDown {row dst len n : Nat} (s : State)
    (h : ∀ j, j < n → dst + j * len = row ∨ row + len ≤ dst + j * len) :
    copyRowDown row dst len n s = putDown (s.readBytes row len) dst len n s := by
  induction n generalizing s with
  | zero => rfl
  | succ n ih =>
    rw [copyRowDown, putDown, ih _ (fun j hj => h j (Nat.lt_succ_of_lt hj)),
      readBytes_putBytes_self s (h n (Nat.lt_succ_self n))]

/-! ## One source row of the in-place procedure -/

/-- Source row y spread over its own row, which `41_chunky_fill_expand.md` R147 leaves out for SX = 1. -/
def State.spreadSource (s : State) (b y : Nat) : State :=
  if s.x.sx.toNat = 1 then s
  else spreadRow (s.x.chb.toNat + y * (s.x.w.toNat * b)) b (s.x.w.toNat / s.x.sx.toNat) s

/-- What `41_chunky_fill_expand.md` R147 does for source row y. -/
def State.expandRow (s : State) (b y : Nat) : State :=
  copyRowDown (s.x.chb.toNat + y * (s.x.w.toNat * b)) (s.x.chb.toNat + y * s.x.sy.toNat * (s.x.w.toNat * b))
    (s.x.w.toNat * b) s.x.sy.toNat (s.spreadSource b y)

theorem expandInPlace_succ (b y : Nat) (s : State) : expandInPlace b (y + 1) s = expandInPlace b y (s.expandRow b y) := rfl

@[simp] theorem State.spreadSource_x (s : State) (b y : Nat) : (s.spreadSource b y).x = s.x := by
  unfold State.spreadSource
  split
  · rfl
  · exact spreadRow_x _ _ _ s

@[simp] theorem State.expandRow_x (s : State) (b y : Nat) : (s.expandRow b y).x = s.x := by
  rw [State.expandRow, copyRowDown_x, State.spreadSource_x]

theorem scaleOk_expandRow {s : State} (b y : Nat) : ScaleOk (s.expandRow b y) ↔ ScaleOk s := by
  rw [ScaleOk, State.expandRow_x, ScaleOk]

theorem readByte_spreadSource_outside {s : State} (hscale : ScaleOk s) {b y a : Nat}
    (ha : ¬Within a (s.x.chb.toNat + y * (s.x.w.toNat * b), s.x.w.toNat * b)) :
    (s.spreadSource b y).readByte a = s.readByte a := by
  obtain ⟨_, _, hdvd, _⟩ := hscale
  unfold State.spreadSource
  split
  · rfl
  · exact readByte_spreadRow_outside s (by rwa [Nat.div_mul_cancel hdvd])

theorem readByte_spreadSource_same {s : State} (hscale : ScaleOk s) {b x y j : Nat} (hx : x < s.x.w.toNat) (hj : j < b) :
    (s.spreadSource b y).readByte (s.x.chb.toNat + y * (s.x.w.toNat * b) + x * b + j)
      = s.readByte (s.x.chb.toNat + y * (s.x.w.toNat * b) + x / s.x.sx.toNat * b + j) := by
  obtain ⟨hsx, _, hdvd, _⟩ := hscale
  unfold State.spreadSource
  split
  case isTrue hone => rw [hone, Nat.div_one]
  case isFalse => exact readByte_spreadRow_same s hsx (by rwa [Nat.div_mul_cancel hdvd]) hj

/-- Row y is copied to the rows y * SY .. y * SY + SY - 1, of which only the first can be row y and none is above it. -/
theorem expandRow_eq_putDown {s : State} (hscale : ScaleOk s) (b y : Nat) :
    s.expandRow b y
      = putDown ((s.spreadSource b y).readBytes (s.x.chb.toNat + y * (s.x.w.toNat * b)) (s.x.w.toNat * b))
          (s.x.chb.toNat + y * s.x.sy.toNat * (s.x.w.toNat * b)) (s.x.w.toNat * b) s.x.sy.toNat (s.spreadSource b y) := by
  obtain ⟨_, hsy, _⟩ := hscale
  refine copyRowDown_eq_putDown _ fun j _ => ?_
  have hle : y ≤ y * s.x.sy.toNat + j := (Nat.le_mul_of_pos_right y hsy).trans (Nat.le_add_right _ j)
  rw [Nat.add_assoc, ← Nat.add_mul]
  rcases Nat.eq_or_lt_of_le hle with heq | hlt
  · rw [← heq]
    exact Or.inl rfl
  · have hrow := Nat.mul_le_mul_right (s.x.w.toNat * b) (Nat.succ_le_of_lt hlt)
    rw [Nat.succ_mul] at hrow
    omega

theorem readByte_expandRow_outside {s : State} (hscale : ScaleOk s) {b y a : Nat}
    (hrow : ¬Within a (s.x.chb.toNat + y * (s.x.w.toNat * b), s.x.w.toNat * b))
    (hcopies : ¬Within a (s.x.chb.toNat + y * s.x.sy.toNat * (s.x.w.toNat * b), s.x.sy.toNat * (s.x.w.toNat * b))) :
    (s.expandRow b y).readByte a = s.readByte a := by
  rw [expandRow_eq_putDown hscale, readByte_putDown_outside (State.readBytes_length _ _ _) _ hcopies,
    readByte_spreadSource_outside hscale hrow]

/-- Pixel x of copy k of source row y is the source pixel x / SX of that row. -/
theorem readByte_expandRow_same {s : State} (hscale : ScaleOk s) {b x y k j : Nat} (hx : x < s.x.w.toNat)
    (hk : k < s.x.sy.toNat) (hj : j < b) :
    (s.expandRow b y).readByte (s.x.chb.toNat + (y * s.x.sy.toNat + k) * (s.x.w.toNat * b) + x * b + j)
      = s.readByte (s.x.chb.toNat + y * (s.x.w.toNat * b) + x / s.x.sx.toNat * b + j) := by
  rw [expandRow_eq_putDown hscale, Nat.add_mul, ← Nat.add_assoc s.x.chb.toNat, Nat.add_assoc _ (x * b) j,
    readByte_putDown_same _ _ _ _ hk (pixelByte_lt hx hj), ← Nat.add_assoc, readByte_spreadSource_same hscale hx hj]

/-! ## The in-place procedure -/

theorem readByte_expandInPlace_outside {s : State} (hscale : ScaleOk s) {b n a : Nat}
    (ha : ¬Within a (s.x.chb.toNat, n * s.x.sy.toNat * (s.x.w.toNat * b))) :
    (expandInPlace b n s).readByte a = s.readByte a := by
  induction n generalizing s with
  | zero => rfl
  | succ n ih =>
    have ⟨_, hsy, _⟩ := hscale
    have hsource : (n + 1) * (s.x.w.toNat * b) ≤ (n + 1) * s.x.sy.toNat * (s.x.w.toNat * b) :=
      Nat.mul_le_mul_right _ (Nat.le_mul_of_pos_right _ hsy)
    simp only [Within, Nat.succ_mul, Nat.add_mul] at ha hsource
    rw [expandInPlace_succ, ih ((scaleOk_expandRow b n).2 hscale) (by simp only [State.expandRow_x, Within]; omega)]
    refine readByte_expandRow_outside hscale ?_ ?_ <;> simp only [Within] <;> omega

/-- Bottom to top no source row is overwritten before it is spread: its first copy stands at or below it
(`41_chunky_fill_expand.md` R147). -/
theorem readByte_expandInPlace_same {s : State} (hscale : ScaleOk s) {b n x y j : Nat} (hx : x < s.x.w.toNat)
    (hy : y < n * s.x.sy.toNat) (hj : j < b) :
    (expandInPlace b n s).readByte (s.x.chb.toNat + y * (s.x.w.toNat * b) + x * b + j)
      = s.readByte (s.x.chb.toNat + y / s.x.sy.toNat * (s.x.w.toNat * b) + x / s.x.sx.toNat * b + j) := by
  induction n generalizing s with
  | zero => omega
  | succ n ih =>
    have ⟨_, hsy, _⟩ := hscale
    have hscale' := (scaleOk_expandRow b n).2 hscale
    rw [expandInPlace_succ]
    by_cases hlt : y < n * s.x.sy.toNat
    · have hsrc : y / s.x.sy.toNat < n := (Nat.div_lt_iff_lt_mul hsy).2 hlt
      have hn : n ≤ n * s.x.sy.toNat := Nat.le_mul_of_pos_right n hsy
      have hbyte : x / s.x.sx.toNat * b + j < s.x.w.toNat * b :=
        pixelByte_lt ((Nat.div_le_self x _).trans_lt hx) hj
      have hih := ih hscale' (by rwa [State.expandRow_x]) (by rwa [State.expandRow_x])
      rw [State.expandRow_x] at hih
      rw [hih, Nat.add_assoc _ _ j]
      refine readByte_expandRow_outside hscale ?_ ?_
      · rw [within_block_iff _ hbyte]
        exact Nat.ne_of_lt hsrc
      · rw [within_blocks_iff _ hbyte]
        omega
    · obtain ⟨k, rfl⟩ := Nat.exists_eq_add_of_le (Nat.le_of_not_lt hlt)
      rw [Nat.succ_mul] at hy
      have hk : k < s.x.sy.toNat := by omega
      have hout : ¬Within (s.x.chb.toNat + (n * s.x.sy.toNat + k) * (s.x.w.toNat * b) + (x * b + j))
          (s.x.chb.toNat, n * s.x.sy.toNat * (s.x.w.toNat * b)) := by
        rwa [within_first_blocks_iff _ (pixelByte_lt hx hj)]
      rw [Nat.add_assoc _ (x * b) j, readByte_expandInPlace_outside hscale' (by rwa [State.expandRow_x]), ← Nat.add_assoc,
        readByte_expandRow_same hscale hx hk hj, block_number hk]

/-- Settles O21: both leave pixel (x, y) as the old pixel (x / SX, y / SY), and every byte outside `CX(b)` as it was. -/
theorem expandInPlaceOrderAgrees : Obligations.ExpandInPlaceOrderAgrees := by
  intro s i b hi hd hscale hp
  obtain ⟨t, he, -, -, hpixels, hframe⟩ := expandReplicatesPixels s i b hi hd hscale hp
  have ⟨_, _, _, hdvd⟩ := hscale
  have hrows : s.x.h.toNat / s.x.sy.toNat * s.x.sy.toNat = s.x.h.toNat := Nat.div_mul_cancel hdvd
  refine ⟨t, he, fun a => ?_⟩
  by_cases ha : Within a (cxRange s b)
  · obtain ⟨x, y, j, hx, hy, hj, rfl⟩ := exists_pixel ha
    exact (hpixels x y j hx hy hj).trans (readByte_expandInPlace_same hscale hx (by rwa [hrows]) hj).symm
  · refine (hframe a ha).trans (readByte_expandInPlace_outside hscale ?_).symm
    rw [hrows, ← Nat.mul_assoc, Nat.mul_comm s.x.h.toNat]
    exact ha

end Sys2Proof.Machine
end

section
/-! PROOFS. The HAM commands (`42_ham.md`): the model's decoding of a code is the step of the running colour that the rule states,
and a run of codes leaves each running colour as an opaque pixel. -/

namespace Sys2Proof.Machine

open Sys2Proof.Spec

/-! ## The bit fields of a code -/

theorem toNat_and_of_mask (c : Byte) {m : Byte} {k : Nat} (hm : m.toNat = 2 ^ k - 1) : (c &&& m).toNat = c.toNat % 2 ^ k := by
  rw [BitVec.toNat_and, hm, Nat.and_two_pow_sub_one_eq_mod]

theorem toNat_ushiftRight_byte (c : Byte) (k : Nat) : (c >>> k).toNat = c.toNat / 2 ^ k := by
  rw [BitVec.toNat_ushiftRight, Nat.shiftRight_eq_div_pow]

/-- Bits put together from a shifted field and a field below the shift are a sum, whatever the shift drops. -/
theorem shiftLeft_or_eq_ofNat {v low : Byte} {k : Nat} (hlow : low.toNat < 2 ^ k) :
    (v <<< k) ||| low = BitVec.ofNat 8 (2 ^ k * v.toNat + low.toNat) := by
  refine BitVec.eq_of_toNat_eq ?_
  rw [BitVec.toNat_or, BitVec.toNat_shiftLeft, BitVec.toNat_ofNat, Nat.two_pow_add_eq_or_of_lt hlow, Nat.or_mod_two_pow,
    Nat.mod_eq_of_lt low.isLt, Nat.shiftLeft_eq, Nat.mul_comm]

/-- The intensity (v << 4) | v of a HAM6 code is 17 · v (`42_ham.md` R162). -/
theorem ham6Intensity_eq (c : Byte) :
    ((c &&& 0x0F) <<< 4) ||| (c &&& 0x0F) = BitVec.ofNat 8 (17 * (c.toNat % 16)) := by
  have hv : (c &&& 0x0F).toNat = c.toNat % 16 := toNat_and_of_mask c (k := 4) rfl
  rw [shiftLeft_or_eq_ofNat (by omega), hv]
  congr 1
  omega

/-- The intensity (v << 2) | (v >> 4) of a HAM8 code is 4 · v + v / 16 (`42_ham.md` R162). -/
theorem ham8Intensity_eq (c : Byte) :
    ((c &&& 0x3F) <<< 2) ||| ((c &&& 0x3F) >>> 4) = BitVec.ofNat 8 (4 * (c.toNat % 64) + c.toNat % 64 / 16) := by
  have hv : (c &&& 0x3F).toNat = c.toNat % 64 := toNat_and_of_mask c (k := 6) rfl
  have htop : ((c &&& 0x3F) >>> 4).toNat = c.toNat % 64 / 16 :=
    (toNat_ushiftRight_byte _ 4).trans (congrArg (· / 16) hv)
  rw [shiftLeft_or_eq_ofNat (by omega), hv, htop]
  rfl

/-! ## The step of the running colour -/

/-- The four modes (`42_ham.md` R165). -/
theorem hamAction_apply (pal : Nat → Colour) (hcr : Colour) (mode : Nat) (code intensity : Byte) :
    (hamAction mode code intensity).apply pal hcr =
      if mode = 0 then pal code.toNat
      else if mode = 1 then { hcr with blue := intensity }
      else if mode = 2 then { hcr with red := intensity }
      else { hcr with green := intensity } := by
  match mode with
  | 0 | 1 | 2 | _ + 3 => rfl

/-- The model's palette is the one of the statements (`20_memory.md` R64). -/
theorem pal_eq_entry (s : State) : s.pal = entry s := rfl

theorem ham6Action_apply (s : State) (c : Byte) (hcr : Colour) : (ham6Action c).apply s.pal hcr = ham6Next s c hcr := by
  have hmode : ((c >>> 4) &&& 3).toNat = c.toNat / 16 % 4 :=
    (toNat_and_of_mask (c >>> 4) (k := 2) rfl).trans (congrArg (· % 4) (toNat_ushiftRight_byte c 4))
  rw [ham6Action, hamAction_apply, hmode, ham6Intensity_eq, pal_eq_entry, ham6Next]

theorem ham8Action_apply (s : State) (c : Byte) (hcr : Colour) : (ham8Action c).apply s.pal hcr = ham8Next s c hcr := by
  have hmode : (c >>> 6).toNat = c.toNat / 64 := toNat_ushiftRight_byte c 6
  rw [ham8Action, hamAction_apply, hmode, ham8Intensity_eq, pal_eq_entry, ham8Next]

/-! ## The bytes of the destination -/

/-- Byte `j` of destination pixel `i` is byte `j` of the running colour after the code of source pixel `i`
(`42_ham.md` R161). -/
theorem readByte_hamOutput (s : State) (action : Byte → HamAction) {i j : Nat} (hi : i < s.x.w.toNat * s.x.h.toNat)
    (hj : j < 4) :
    (s.setMem (s.mem.storeBytes s.x.dsb.toNat (s.hamOutput action))).readByte (s.x.dsb.toNat + 4 * i + j)
      = (hamColour action s.pal (s.pal 0) (fun n => s.readByte (s.x.chb.toNat + n)) (i + 1)).rgbaBytes[j]'hj := by
  have hbyte : 4 * i + j < (s.hamOutput action).length := by
    rw [State.hamOutput_length]
    omega
  rw [Nat.add_assoc, State.readByte_storeBytes_same _ _ _ hbyte, ← Option.some_inj, ← List.getElem?_eq_getElem,
    State.hamOutput_getElem? s action hi hj]
  exact List.getElem?_eq_getElem hj

/-- A HAM command whose decoding follows `next` leaves the running colours of `next`: `hamColour` is their sequence. -/
theorem hamResult_of_apply {action : Byte → HamAction} {next : State → Byte → Colour → Colour} {s t : State}
    (hnext : ∀ c hcr, (action c).apply s.pal hcr = next s c hcr)
    (hbytes : ∀ a, t.readByte a = (s.setMem (s.mem.storeBytes s.x.dsb.toNat (s.hamOutput action))).readByte a) :
    HamResult next s t := by
  refine ⟨hamColour action s.pal (s.pal 0) (fun n => s.readByte (s.x.chb.toNat + n)), rfl, fun i hi => ?_, fun a ha => ?_⟩
  · have hpixel (j : Nat) (hj : j < 4) := (hbytes _).trans (readByte_hamOutput s action hi hj)
    exact ⟨hnext _ _, hpixel 0 (by decide), hpixel 1 (by decide), hpixel 2 (by decide), hpixel 3 (by decide)⟩
  · refine (hbytes a).trans (readByte_storeBytes_outside s ?_)
    rw [State.hamOutput_length, Nat.mul_comm 4]
    exact ha

/-! ## The checks -/

/-- What `Placed` asks of a HAM command: the three extents fit, and the destination is apart from both sources
(`20_memory.md` R69 to R71). -/
theorem placed_ham_iff {f : Family} {s : State} (hf : f = .ham6 ∨ f = .ham8) :
    Placed f s ↔ (InMem s (cxRange s 1) ∧ InMem s (pxRange s) ∧ InMem s (dxRange s 4)) ∧
      ¬Overlap (dxRange s 4) (cxRange s 1) ∧ ¬Overlap (dxRange s 4) (pxRange s) := by
  rcases hf with rfl | rfl <;> simp [Placed, checkedRanges, testedPairs]

theorem firstFault_hamChecks_eq_none {f : Family} {s : State} {least : Nat} (hf : f = .ham6 ∨ f = .ham8) (hd : DimsOk s)
    (hleast : least ≤ s.x.paln.toNat) (hpaln : s.x.paln.toNat ≤ 256) (hp : Placed f s) :
    firstFault (hamChecks least s) = none := by
  obtain ⟨⟨hcx, hpx, hdx⟩, hapartCx, hapartPx⟩ := (placed_ham_iff hf).1 hp
  simp only [hamChecks, firstFault_cons_eq_none, checkDim_eq_none_iff_dimsOk, checkPal_eq_none, checkPalMin_eq_none,
    checkFits_eq_none, checkApart_eq_none_iff_not_overlap]
  exact ⟨hd, hpaln, hleast, hcx, hpx, hdx, hapartCx, hapartPx, rfl⟩

theorem hamSource_getElem (s : State) {i : Nat} (hi : i < s.hamSource.length) :
    s.hamSource[i] = s.readByte (s.x.chb.toNat + i) :=
  State.readBytes_getElem s _ hi

/-- The source bytes are 6-bit codes when each of them is below 64 (`42_ham.md` R166). -/
theorem checkPixels_eq_none_of_lt {s : State}
    (h : ∀ i, i < s.x.w.toNat * s.x.h.toNat → (s.readByte (s.x.chb.toNat + i)).toNat < 64) : checkPixels s = none := by
  rw [checkPixels_eq_none]
  intro c hc
  obtain ⟨i, hi, rfl⟩ := List.getElem_of_mem hc
  have hcode := h i (by simpa using hi)
  rw [hamSource_getElem]
  exact BitVec.eq_of_toNat_eq ((toNat_ushiftRight_byte _ 6).trans (Nat.div_eq_of_lt hcode))

/-! ## HAM6 and HAM8 -/

/-- Settles O23: the checks pass, stage 12 by the bound on the source, and the run follows `ham6Next`. -/
theorem ham6Reconstructs : Obligations.Ham6Reconstructs := by
  intro s hd hleast hpaln hp hcodes
  have hpass : firstFault (familyChecks .ham6 s) = none := by
    rw [familyChecks, firstFault_append_eq_none, firstFault_cons_eq_none]
    exact ⟨firstFault_hamChecks_eq_none (Or.inl rfl) hd hleast hpaln hp, checkPixels_eq_none_of_lt hcodes, rfl⟩
  obtain ⟨t, he, hc, hres, hbytes⟩ := exists_completed_of_pass (i := .ham6) (by decide) hpass
  exact ⟨t, he, hc, hres, hamResult_of_apply (ham6Action_apply s) hbytes⟩

/-- Settles O24: the checks pass without a look at the source, and the run follows `ham8Next`. -/
theorem ham8Reconstructs : Obligations.Ham8Reconstructs := by
  intro s hd hleast hpaln hp
  obtain ⟨t, he, hc, hres, hbytes⟩ :=
    exists_completed_of_pass (i := .ham8) (by decide) (firstFault_hamChecks_eq_none (Or.inr rfl) hd hleast hpaln hp)
  exact ⟨t, he, hc, hres, hamResult_of_apply (ham8Action_apply s) hbytes⟩

end Sys2Proof.Machine
end

section
/-! PROOFS. The search and RGB2PAL (`43_nearest_quantize.md`): the redmean distance as a weighted sum of squares, the checks of
NEAREST and RGB2PAL, and the palette index that each selector leaves at each pixel. -/

namespace Sys2Proof.Machine

open Sys2Proof.Spec

/-! ## The redmean distance -/

section WeightedSquares

variable {u v w a b c : Int}

theorem weighted_squares_eq_zero_iff (hu : 0 < u) (hv : 0 < v) (hw : 0 < w) :
    u * a ^ 2 + v * b ^ 2 + w * c ^ 2 = 0 ↔ a = 0 ∧ b = 0 ∧ c = 0 := by
  constructor
  · intro h
    have ha : 0 ≤ u * a ^ 2 := by positivity
    have hb : 0 ≤ v * b ^ 2 := by positivity
    have hc : 0 ≤ w * c ^ 2 := by positivity
    have ha0 : u * a ^ 2 = 0 := by omega
    have hb0 : v * b ^ 2 = 0 := by omega
    have hc0 : w * c ^ 2 = 0 := by omega
    simpa [hu.ne', hv.ne', hw.ne'] using And.intro ha0 (And.intro hb0 hc0)
  · rintro ⟨rfl, rfl, rfl⟩
    ring

theorem weighted_squares_le {n : Int} (hu : 0 < u) (hv : 0 < v) (hw : 0 < w) (ha : a ^ 2 ≤ n) (hb : b ^ 2 ≤ n)
    (hc : c ^ 2 ≤ n) : u * a ^ 2 + v * b ^ 2 + w * c ^ 2 ≤ (u + v + w) * n :=
  calc u * a ^ 2 + v * b ^ 2 + w * c ^ 2
    _ ≤ u * n + v * n + w * n := by gcongr
    _ = (u + v + w) * n := by ring

end WeightedSquares

/-- The three weights are positive, since the mean redness is a byte (`43_nearest_quantize.md` R181). -/
theorem redmean_weights_pos (c p : Colour) :
    0 < 512 + ((c.red.toNat : Int) + p.red.toNat) / 2 ∧ 0 < 767 - ((c.red.toNat : Int) + p.red.toNat) / 2 := by
  have hc := c.red.isLt
  have hp := p.red.isLt
  omega

theorem toNat_sub_eq_zero_iff (a b : Byte) : (a.toNat : Int) - b.toNat = 0 ↔ a = b := by
  rw [← BitVec.toNat_inj]
  omega

theorem toNat_sub_sq_le (a b : Byte) : ((a.toNat : Int) - b.toNat) ^ 2 ≤ 255 ^ 2 := by
  have ha := a.isLt
  have hb := b.isLt
  exact sq_le_sq' (by omega) (by omega)

theorem distance_eq_zero_iff (c p : Colour) : distance c p = 0 ↔ c = p := by
  obtain ⟨hred, hblue⟩ := redmean_weights_pos c p
  rw [distance, weighted_squares_eq_zero_iff hred (by decide) hblue, toNat_sub_eq_zero_iff, toNat_sub_eq_zero_iff,
    toNat_sub_eq_zero_iff, Colour.mk.injEq]

/-- The weights sum to 2303 whatever the mean redness is, and no square exceeds 255². -/
theorem distance_le (c p : Colour) : distance c p ≤ 149752575 := by
  obtain ⟨hred, hblue⟩ := redmean_weights_pos c p
  refine (weighted_squares_le hred (by decide) hblue (toNat_sub_sq_le _ _) (toNat_sub_sq_le _ _)
    (toNat_sub_sq_le _ _)).trans (le_of_eq ?_)
  ring

/-- Settles O26. -/
theorem redmeanDistance : Obligations.RedmeanDistance :=
  ⟨fun c p => ⟨colourDist_cast c p, distance_eq_zero_iff c p, distance_le c p⟩, rfl⟩

/-! ## NEAREST -/

theorem firstFault_nearest_eq_none {s : State} (hpaln : s.x.paln.toNat ≤ 256) (hrange : s.x.palf.toNat < s.x.paln.toNat)
    (hp : InMem s (pxRange s)) : firstFault (familyChecks .nearest s) = none := by
  simp only [familyChecks, nearestChecks, firstFault_cons_eq_none, checkPal_eq_none, failIf_eq_none, checkFits_eq_none,
    decide_eq_false_iff_not]
  exact ⟨hpaln, by omega, hp, rfl⟩

/-- Settles O25: the checks pass, and the index written is the one of `isNearest_nearest`. -/
theorem nearestFindsTheLowestBestIndex : Obligations.NearestFindsTheLowestBestIndex := by
  intro s hpaln hrange hp
  exact ⟨_, _, exec_nearest_of_pass (firstFault_nearest_eq_none hpaln hrange hp), rfl, rfl, rfl,
    isNearest_nearest s (queryColour s.x.color) hrange⟩

/-! ## The checks of RGB2PAL -/

/-- What `Placed` asks of `RGB2PAL`: the three extents fit, and the destination is apart from both sources
(`20_memory.md` R69 to R71). -/
theorem placed_rgb2pal_iff {k : Option KernelId} {s : State} :
    Placed (.rgb2pal k) s ↔ (InMem s (cxRange s 4) ∧ InMem s (pxRange s) ∧ InMem s (dxRange s 1)) ∧
      ¬Overlap (dxRange s 1) (cxRange s 4) ∧ ¬Overlap (dxRange s 1) (pxRange s) := by
  simp [Placed, checkedRanges, testedPairs]

theorem firstFault_rgb2pal_eq_none {k : Option KernelId} {s : State} (hd : DimsOk s) (hpos : 1 ≤ s.x.paln.toNat)
    (hpaln : s.x.paln.toNat ≤ 256) (hp : Placed (.rgb2pal k) s) : firstFault (familyChecks (.rgb2pal k) s) = none := by
  obtain ⟨⟨hcx, hpx, hdx⟩, hapartCx, hapartPx⟩ := placed_rgb2pal_iff.1 hp
  simp only [familyChecks, rgb2palChecks, firstFault_cons_eq_none, checkDim_eq_none_iff_dimsOk, checkPal_eq_none,
    failIf_eq_none, checkFits_eq_none, checkApart_eq_none_iff_not_overlap, decide_eq_false_iff_not]
  exact ⟨hd, hpaln, by omega, hcx, hpx, hdx, hapartCx, hapartPx, rfl⟩

/-! ## An empty range -/

theorem failIf_of_holds {p : Prop} [Decidable p] (hp : p) (f : PdiFault) : failIf (decide p) f = some f := by
  rw [decide_eq_true hp, failIf_true]

/-- The stages before `EMPTYPAL` are those of the table of `60_exceptions.md` R236, so it is the first to fail. -/
theorem firstFault_nearest_empty {s : State} (hpaln : s.x.paln.toNat ≤ 256) (hempty : s.x.paln.toNat ≤ s.x.palf.toNat) :
    firstFault (familyChecks .nearest s) = some .emptyPal := by
  rw [familyChecks, nearestChecks, (checkPal_eq_none s).2 hpaln, failIf_of_holds hempty, firstFault_cons_none,
    firstFault_cons_some]

theorem firstFault_rgb2pal_empty {s : State} (k : Option KernelId) (hd : DimsOk s) (hempty : s.x.paln.toNat = 0) :
    firstFault (familyChecks (.rgb2pal k) s) = some .emptyPal := by
  rw [familyChecks, rgb2palChecks, (checkDim_eq_none_iff_dimsOk s).2 hd, (checkPal_eq_none s).2 (by omega),
    failIf_of_holds hempty, firstFault_cons_none, firstFault_cons_none, firstFault_cons_some]

theorem exists_faulted_of_fault {i : Instr} {s : State} {f : PdiFault}
    (h : firstFault (familyChecks (family i) s) = some f) :
    ∃ t, exec i s = .next t ∧ Faulted s t f.code.toNat f.info.toNat :=
  ⟨_, (exec_eq_runCommand i s).trans (runCommand_of_fault h), faulted_raise s f⟩

/-- Settles O27: `EMPTYPAL` is the first stage that fails. -/
theorem emptyPaletteFaults : Obligations.EmptyPaletteFaults := by
  refine ⟨fun s hpaln hempty => ?_, fun s i ⟨k, hf⟩ hd hempty => ?_⟩
  · exact exists_faulted_of_fault (i := .nearest) (firstFault_nearest_empty hpaln hempty)
  · exact exists_faulted_of_fault (hf ▸ firstFault_rgb2pal_empty k hd hempty)

/-! ## The palette index at a pixel -/

/-- The direct mapping leaves at a pixel the index found for its own source pixel (`43_nearest_quantize.md` R186). -/
theorem readByte_rgb2palDirect (s : State) {x y : Nat} (hx : x < s.x.w.toNat) (hy : y < s.x.h.toNat) :
    (s.setMem (familyMem (.rgb2pal none) s)).readByte (s.x.dsb.toNat + y * s.x.w.toNat + x)
      = BitVec.ofNat 8 (s.paletteIndex (sourceAt s x y)) := by
  have hpixel := State.readByte_storeImage_same s s.x.dsb.toNat (fun col row => s.paletteIndex (s.sourcePixel col row))
    (Nat.mul_one _).le hx hy Nat.one_pos
  rwa [Nat.mul_one, Nat.add_zero, Nat.pow_zero, Nat.div_one] at hpixel

/-- The kernel engine leaves at a pixel the index chosen with `E` as the pixels before it left it (`44_dither.md` R209). -/
theorem readByte_rgb2palDither (s : State) (k : KernelId) {x y : Nat} (hx : x < s.x.w.toNat) (hy : y < s.x.h.toNat) :
    (s.setMem (familyMem (.rgb2pal (some k)) s)).readByte (s.x.dsb.toNat + y * s.x.w.toNat + x)
      = BitVec.ofNat 8 (ditherPixel (s.ditherContext k)
          (ditherRow (s.ditherContext k) (fun col => s.sourcePixel col y)
            (ditherRows (s.ditherContext k) s.sourcePixel y).2 x).2 x (s.sourcePixel x y)).1 := by
  have hlen : y * s.x.w.toNat + x < (s.ditherOutput k).length := by
    rw [State.ditherOutput_length]
    simpa using pixelByte_lt (b := s.x.w.toNat) hy hx
  rw [familyMem, Nat.add_assoc, State.readByte_storeBytes_same _ _ _ hlen, ← Option.some_inj, ← List.getElem?_eq_getElem,
    State.ditherOutput, List.getElem?_map]
  exact congrArg (Option.map _) (ditherRows_getElem? (s.ditherContext k) s.sourcePixel hy hx)

/-- Whatever the selector, a pixel holds the palette index of some colour (`43_nearest_quantize.md` R188). -/
theorem exists_colour_of_rgb2pal (s : State) (k : Option KernelId) {x y : Nat} (hx : x < s.x.w.toNat) (hy : y < s.x.h.toNat) :
    ∃ c, (s.setMem (familyMem (.rgb2pal k) s)).readByte (s.x.dsb.toNat + y * s.x.w.toNat + x)
      = BitVec.ofNat 8 (s.paletteIndex c) := by
  cases k with
  | none => exact ⟨_, readByte_rgb2palDirect s hx hy⟩
  | some k => exact ⟨_, readByte_rgb2palDither s k hx hy⟩

/-! ## RGB2PAL -/

/-- Settles O28: the pixels by `readByte_rgb2palDirect`, the rest by the frame of the family. -/
theorem directMappingOfEachPixel : Obligations.DirectMappingOfEachPixel := by
  intro s i hi hd hpos hpaln hp
  have hf : family i = .rgb2pal none := by
    revert i
    decide
  obtain ⟨t, he, hc, hres, hbytes⟩ :=
    exists_completed_of_pass (i := i) (hf ▸ nofun) (hf ▸ firstFault_rgb2pal_eq_none hd hpos hpaln hp)
  rw [hf] at hbytes
  refine ⟨t, he, hc, hres, fun x y hx hy => ?_, fun a ha => ?_⟩
  · exact ⟨_, isNearest_nearest s _ hpos, (hbytes _).trans (readByte_rgb2palDirect s hx hy)⟩
  · exact (hbytes a).trans (familyMem_outside (f := .rgb2pal none) ha)

/-- Settles O32: a pixel holds a palette index, and an index below 256 fits its byte. -/
theorem indicesBelowThePaletteSize : Obligations.IndicesBelowThePaletteSize := by
  intro s i k hf hd hpos hpaln hp
  obtain ⟨t, he, hc, -, hbytes⟩ :=
    exists_completed_of_pass (i := i) (hf ▸ nofun) (hf ▸ firstFault_rgb2pal_eq_none hd hpos hpaln hp)
  rw [hf] at hbytes
  refine ⟨t, he, hc, fun p hpixel => ?_⟩
  obtain ⟨y, x, hy, hx, haddr⟩ : ∃ y x, y < s.x.h.toNat ∧ x < s.x.w.toNat ∧
      s.x.dsb.toNat + p = s.x.dsb.toNat + y * s.x.w.toNat + x :=
    exists_block ⟨Nat.le_add_right _ _, by rw [Nat.mul_comm]; exact Nat.add_lt_add_left hpixel _⟩
  obtain ⟨c, hbyte⟩ := exists_colour_of_rgb2pal s k hx hy
  have hindex := paletteIndex_lt hpos c
  rw [hbytes, haddr, hbyte, BitVec.toNat_ofNat, Nat.mod_eq_of_lt (by omega)]
  exact hindex

/-! ## The selectors 9 to 15 -/

/-- `exec` depends on a command by its family only. -/
theorem exec_eq_of_family_eq {i j : Instr} (h : family i = family j) (s : State) : exec i s = exec j s := by
  rw [exec_eq_runCommand, exec_eq_runCommand, h]

/-- Settles O29: each word decodes by evaluation, and its command is of the family of `RGB2PAL.NONE`. -/
theorem aliasSelectorsRunAsNone : Obligations.AliasSelectorsRunAsNone := by
  simp only [Obligations.AliasSelectorsRunAsNone, List.forall_mem_cons]
  exact ⟨⟨.rgb2palK9, rfl, exec_eq_of_family_eq rfl⟩, ⟨.rgb2palK10, rfl, exec_eq_of_family_eq rfl⟩,
    ⟨.rgb2palK11, rfl, exec_eq_of_family_eq rfl⟩, ⟨.rgb2palK12, rfl, exec_eq_of_family_eq rfl⟩,
    ⟨.rgb2palK13, rfl, exec_eq_of_family_eq rfl⟩, ⟨.rgb2palK14, rfl, exec_eq_of_family_eq rfl⟩,
    ⟨.rgb2palK15, rfl, exec_eq_of_family_eq rfl⟩, nofun⟩

end Sys2Proof.Machine
end

section
/-! PROOFS. Error diffusion in pull form (`44_dither.md`): a cell of `E` holds the error pulled from the residuals of the pixels
already processed, and for the pixel being output those are all the pixels that target it. -/

namespace Sys2Proof.Machine

open Sys2Proof.Spec

/-! ## The kernel table -/

/-- A table is well formed when each kernel it names is (`44_dither.md` R202). -/
theorem kromOk_iff {krom : Krom} : kromOk krom = true ↔ ∀ k, kernelOk (kernelOf krom k) = true := by
  simp only [kromOk, Bool.and_eq_true]
  constructor
  · rintro ⟨⟨⟨⟨⟨⟨⟨hfs, hjjn⟩, hstucki⟩, hburkes⟩, hatkinson⟩, hsierra3⟩, hsierra2⟩, hlite⟩ k
    cases k <;> assumption
  · intro h
    exact ⟨⟨⟨⟨⟨⟨⟨h .floydSteinberg, h .jarvisJudiceNinke⟩, h .stucki⟩, h .burkes⟩, h .atkinson⟩, h .sierra3⟩,
      h .sierra2⟩, h .sierraLite⟩

/-- A kernel that a legal parameter set holds sends nothing to a pixel already processed (`44_dither.md` R202 (b)). -/
theorem kernelShares_ahead {p : Params} (h : p.legal = true) (k : KernelId) {sh : Share}
    (hsh : sh ∈ kernelShares (kernelOf p.krom k)) (hdy : sh.dy = 0) : 1 ≤ sh.dx := by
  simp only [Params.legal, Bool.and_eq_true] at h
  obtain ⟨_, hkrom⟩ := h
  have hk := kromOk_iff.1 hkrom k
  simp only [kernelOk, Bool.and_eq_true] at hk
  obtain ⟨⟨⟨_, hahead⟩, _⟩, _⟩ := hk
  exact of_decide_eq_true (List.all_eq_true.1 hahead sh hsh) hdy

theorem kernelOk_kromRef (k : KernelId) : kernelOk (kernelOf kromRef k) = true := by
  cases k <;> decide

/-- Settles O33: the table kernel by kernel, and then the bounds on the parameters. -/
theorem referenceTableIsWellFormed : Obligations.ReferenceTableIsWellFormed := by
  have htable : kromOk kromRef = true := kromOk_iff.2 kernelOk_kromRef
  exact ⟨htable, by simp [Params.legal, referenceParams, htable]⟩

/-! ## One channel of a cell -/

/-- A channel of a cell of accumulated error. -/
def ErrCell.channel (ch : Channel) (c : ErrCell) : Int :=
  match ch with
  | .red => c.red
  | .green => c.green
  | .blue => c.blue

@[simp] theorem ErrCell.channel_zero (ch : Channel) : ErrCell.zero.channel ch = 0 := by
  cases ch <;> rfl

@[simp] theorem ErrCell.channel_add (ch : Channel) (c d : ErrCell) : (c.add d).channel ch = c.channel ch + d.channel ch := by
  cases ch <;> rfl

@[simp] theorem ErrCell.channel_scale (ch : Channel) (c : ErrCell) (w : Nat) : (c.scale w).channel ch = c.channel ch * w := by
  cases ch <;> rfl

theorem channel_residual (ch : Channel) (q p : Colour) : (residual q p).channel ch = chan ch q - chan ch p := by
  cases ch <;> rfl

theorem clamp_byte_eq (v : Int) : clamp v 0 255 = max 0 (min 255 v) := by
  unfold clamp
  split
  · omega
  · split <;> omega

theorem ediv_eq_errorUnits (d : ErrDiv) (e : Int) : ediv d e = errorUnits d e := by
  cases d <;> rfl

/-- The corrected colour, channel by channel, as R206 writes it. -/
theorem chan_correctColour (ch : Channel) (d : ErrDiv) (src : Colour) (e : ErrCell) :
    chan ch (correctColour d src e) = max 0 (min 255 (chan ch src + errorUnits d (e.channel ch))) := by
  rw [← ediv_eq_errorUnits, ← clamp_byte_eq]
  cases ch <;> exact correctChannel_toNat _ _ _

/-! ## Pulled error -/

section PulledError

variable {shares : List Share} {w : Nat}

theorem pulledError_cons (sh : Share) (res : Nat → Nat → Int) (x y : Nat) :
    pulledError (sh :: shares) w res x y = pulledError [sh] w res x y + pulledError shares w res x y := by
  simp [pulledError]

/-- Only the residuals of the pixels that target (x, y) matter. -/
theorem pulledError_congr {res res' : Nat → Nat → Int} {x y : Nat}
    (h : ∀ sh ∈ shares, ∀ x' y' : Nat, x' < w → (x' : Int) + sh.dx = x → y' + sh.dy.val = y → res x' y' = res' x' y') :
    pulledError shares w res x y = pulledError shares w res' x y := by
  unfold pulledError
  refine congrArg List.sum (List.map_congr_left fun sh hsh => ?_)
  split
  · rw [h sh hsh _ _ (by omega) (by omega) (by omega)]
  · rfl

theorem pulledError_zero (x y : Nat) : pulledError shares w (fun _ _ => 0) x y = 0 := by
  simp [pulledError]

theorem pulledError_add (res res' : Nat → Nat → Int) (x y : Nat) :
    pulledError shares w (fun x y => res x y + res' x y) x y
      = pulledError shares w res x y + pulledError shares w res' x y := by
  simp only [pulledError]
  rw [← List.sum_map_add]
  refine congrArg List.sum (List.map_congr_left fun sh _ => ?_)
  split
  · exact Int.add_mul _ _ _
  · rfl

end PulledError

/-! ## The residuals seen so far -/

/-- The residuals of the pixels processed before pixel `col` of row `y`, and 0 at the pixels still to come. -/
def residualBefore (y col : Nat) (res : Nat → Nat → Int) (x' y' : Nat) : Int :=
  if y' < y ∨ y' = y ∧ x' < col then res x' y' else 0

/-- A residual at pixel (`col`, `y`) alone. -/
def residualAt (y col : Nat) (v : Int) (x' y' : Nat) : Int := if x' = col ∧ y' = y then v else 0

theorem residualBefore_of_lt {y col : Nat} {res : Nat → Nat → Int} {x' y' : Nat} (h : y' < y ∨ y' = y ∧ x' < col) :
    residualBefore y col res x' y' = res x' y' := if_pos h

theorem residualBefore_of_not_lt {y col : Nat} {res : Nat → Nat → Int} {x' y' : Nat} (h : ¬(y' < y ∨ y' = y ∧ x' < col)) :
    residualBefore y col res x' y' = 0 := if_neg h

theorem residualBefore_zero (res : Nat → Nat → Int) : residualBefore 0 0 res = fun _ _ => 0 := by
  funext x' y'
  exact residualBefore_of_not_lt (by omega)

/-- One more pixel has been processed. -/
theorem residualBefore_succ (y col : Nat) (res : Nat → Nat → Int) :
    residualBefore y (col + 1) res
      = fun x' y' => residualBefore y col res x' y' + residualAt y col (res col y) x' y' := by
  funext x' y'
  simp only [residualBefore, residualAt]
  by_cases hpixel : x' = col ∧ y' = y
  · obtain ⟨rfl, rfl⟩ := hpixel
    simp
  · rw [if_neg hpixel, Int.add_zero]
    exact if_congr (by omega) rfl rfl

/-! ## Diffusing one residual -/

theorem ErrWindow.cell_addAt_same {e : ErrWindow} {w c : Nat} (he : e.hasWidth w) (hc : c < w) (r : Fin 3) (d : ErrCell) :
    (e.addAt r c d).cell r c = (e.cell r c).add d := by
  obtain ⟨h0, h1, h2⟩ := he
  match r with
  | 0 => exact (getD_modify _ _ _ _ _).trans (if_pos ⟨rfl, h0 ▸ hc⟩)
  | 1 => exact (getD_modify _ _ _ _ _).trans (if_pos ⟨rfl, h1 ▸ hc⟩)
  | 2 => exact (getD_modify _ _ _ _ _).trans (if_pos ⟨rfl, h2 ▸ hc⟩)

theorem ErrWindow.cell_addAt_other (e : ErrWindow) {dy r : Fin 3} {col c : Nat} (h : ¬(r = dy ∧ c = col)) (d : ErrCell) :
    (e.addAt dy col d).cell r c = e.cell r c :=
  (e.cell_addAt dy r col c d).resolve_right fun ⟨hr, hc, _⟩ => h ⟨hr, hc⟩

theorem ErrWindow.hasWidth_diffuseShare {e : ErrWindow} {w : Nat} (h : e.hasWidth w) (col : Nat) (res : ErrCell) (sh : Share) :
    (diffuseShare w col res e sh).hasWidth w :=
  ErrWindow.hasWidth_diffuse [sh] col res h

section Diffuse

variable {w col c : Nat} (hcol : col < w) (hc : c < w) (y : Nat) (r : Fin 3) (ch : Channel) (res : ErrCell)

include hcol hc

/-- What one share sends to a cell is what the cell pulls through that share. -/
theorem channel_diffuseShare {e : ErrWindow} (he : e.hasWidth w) (sh : Share) :
    ((diffuseShare w col res e sh).cell r c).channel ch
      = (e.cell r c).channel ch + pulledError [sh] w (residualAt y col (res.channel ch)) c (y + r.val) := by
  simp only [pulledError, residualAt, List.map_cons, List.map_nil, List.sum_singleton]
  by_cases hreach : sh.dy = r ∧ (col : Int) + sh.dx = c
  · obtain ⟨rfl, hdx⟩ := hreach
    have htarget : ((col : Int) + sh.dx).toNat = c := by omega
    rw [diffuseShare, if_pos (by omega), htarget, ErrWindow.cell_addAt_same he hc, ErrCell.channel_add,
      ErrCell.channel_scale, if_pos (by omega), if_pos (by omega)]
  · have hkeep : (diffuseShare w col res e sh).cell r c = e.cell r c := by
      unfold diffuseShare
      split
      · exact ErrWindow.cell_addAt_other e (by omega) _
      · rfl
    rw [hkeep]
    split
    · rw [if_neg (by omega), Int.zero_mul, Int.add_zero]
    · rw [Int.add_zero]

theorem channel_diffuse (shares : List Share) {e : ErrWindow} (he : e.hasWidth w) :
    ((diffuse shares w col res e).cell r c).channel ch
      = (e.cell r c).channel ch + pulledError shares w (residualAt y col (res.channel ch)) c (y + r.val) := by
  induction shares generalizing e with
  | nil => exact (Int.add_zero _).symm
  | cons sh rest ih =>
    have hrest := ih (ErrWindow.hasWidth_diffuseShare he col res sh)
    rw [channel_diffuseShare hcol hc y r ch res he] at hrest
    rw [pulledError_cons, ← Int.add_assoc]
    exact hrest

end Diffuse

/-! ## The run -/

section Run

variable (cx : DitherContext) (src : Nat → Nat → Colour)

/-- `E` before pixel (x, y) (`44_dither.md` R209). -/
def errBefore (x y : Nat) : ErrWindow := (ditherRow cx (fun col => src col y) (ditherRows cx src y).2 x).2

/-- The corrected colour of pixel (x, y) (`44_dither.md` R206). -/
def ditherColour (x y : Nat) : Colour := correctColour cx.errDiv (src x y) ((errBefore cx src x y).current x)

/-- The index chosen for pixel (x, y) (`44_dither.md` R207). -/
def ditherIndex (x y : Nat) : Nat := cx.choose (ditherColour cx src x y)

/-- The residual of pixel (x, y) (`44_dither.md` R207). -/
def ditherResidual (x y : Nat) : ErrCell := residual (ditherColour cx src x y) (cx.pal (ditherIndex cx src x y))

theorem errBefore_zero_zero : errBefore cx src 0 0 = ErrWindow.zero cx.width := rfl

theorem errBefore_zero_succ (y : Nat) : errBefore cx src 0 (y + 1) = (errBefore cx src cx.width y).rotate cx.width := rfl

theorem errBefore_succ (x y : Nat) :
    errBefore cx src (x + 1) y = diffuse cx.shares cx.width x (ditherResidual cx src x y) (errBefore cx src x y) := rfl

theorem errBefore_hasWidth (x y : Nat) : (errBefore cx src x y).hasWidth cx.width :=
  ErrWindow.hasWidth_ditherRow (ErrWindow.hasWidth_ditherRows cx src y) x

theorem channel_ditherResidual (ch : Channel) (x y : Nat) :
    (ditherResidual cx src x y).channel ch
      = chan ch (ditherColour cx src x y) - chan ch (cx.pal (ditherIndex cx src x y)) :=
  channel_residual ch _ _

/-! ## The invariant of the window -/

/-- Before pixel `col` of row `y` each cell of the window `e` holds the error that its pixel pulls from the pixels already
processed; row `r` of the window is row `y + r` of the image. -/
def HoldsPulled (y col : Nat) (e : ErrWindow) : Prop :=
  ∀ ch (r : Fin 3) c, c < cx.width →
    (e.cell r c).channel ch = pulledError cx.shares cx.width
      (residualBefore y col (fun x' y' => (ditherResidual cx src x' y').channel ch)) c (y + r.val)

theorem holdsPulled_zero : HoldsPulled cx src 0 0 (ErrWindow.zero cx.width) := by
  intro ch r c _
  rw [ErrWindow.cell_zero, ErrCell.channel_zero, residualBefore_zero, pulledError_zero]

variable {cx src} {y : Nat} {e : ErrWindow}

/-- A pixel's residual joins the ones pulled. -/
theorem HoldsPulled.diffuse {col : Nat} (h : HoldsPulled cx src y col e) (hcol : col < cx.width) (he : e.hasWidth cx.width) :
    HoldsPulled cx src y (col + 1) (diffuse cx.shares cx.width col (ditherResidual cx src col y) e) := by
  intro ch r c hc
  rw [channel_diffuse hcol hc y r ch _ _ he, h ch r c hc, residualBefore_succ, pulledError_add]

/-- At the end of a row every pixel of it has been processed, so the cells that move up hold what they pull; nothing processed
targets the fresh row, since a target is at most 2 rows down. -/
theorem HoldsPulled.rotate (h : HoldsPulled cx src y cx.width e) : HoldsPulled cx src (y + 1) 0 (e.rotate cx.width) := by
  have hmoved (r r' : Fin 3) (hr : r'.val = r.val + 1) (ch : Channel) (c : Nat) (hc : c < cx.width) :
      (e.cell r' c).channel ch = pulledError cx.shares cx.width
        (residualBefore (y + 1) 0 (fun x' y' => (ditherResidual cx src x' y').channel ch)) c (y + 1 + r.val) := by
    rw [h ch r' c hc, hr, Nat.add_right_comm, ← Nat.add_assoc]
    refine pulledError_congr fun sh _ x' y' hx' _ _ => ?_
    exact if_congr (by omega) rfl rfl
  intro ch r c hc
  match r with
  | 0 => exact hmoved 0 1 rfl ch c hc
  | 1 => exact hmoved 1 2 rfl ch c hc
  | 2 =>
    have hfresh : pulledError cx.shares cx.width
        (residualBefore (y + 1) 0 (fun x' y' => (ditherResidual cx src x' y').channel ch)) c (y + 1 + 2) = 0 := by
      rw [← pulledError_zero (shares := cx.shares) (w := cx.width) c (y + 1 + 2)]
      refine pulledError_congr fun sh _ x' y' _ _ hy' => ?_
      exact residualBefore_of_not_lt (by omega)
    show ((ErrWindow.zero cx.width).cell 2 c).channel ch = _
    rw [ErrWindow.cell_zero, ErrCell.channel_zero]
    exact hfresh.symm

theorem HoldsPulled.along_row (h : HoldsPulled cx src y 0 (errBefore cx src 0 y)) :
    ∀ x, x ≤ cx.width → HoldsPulled cx src y x (errBefore cx src x y)
  | 0, _ => h
  | x + 1, hx => (along_row h x (Nat.le_of_succ_le hx)).diffuse hx (errBefore_hasWidth cx src x y)

variable (cx src)

theorem holdsPulled_row_start : ∀ y, HoldsPulled cx src y 0 (errBefore cx src 0 y)
  | 0 => holdsPulled_zero cx src
  | y + 1 => ((holdsPulled_row_start y).along_row cx.width (Nat.le_refl _)).rotate

/-- When a pixel is output, every pixel that targets it has been processed, so its cell holds all the error it pulls
(`44_dither.md` R202 (b), R207). -/
theorem current_eq_pulledError (hahead : ∀ sh ∈ cx.shares, sh.dy = 0 → 1 ≤ sh.dx) (ch : Channel) {x : Nat} (hx : x < cx.width)
    (y : Nat) : ((errBefore cx src x y).current x).channel ch
      = pulledError cx.shares cx.width (fun x' y' => (ditherResidual cx src x' y').channel ch) x y := by
  have hcell := (holdsPulled_row_start cx src y).along_row x (Nat.le_of_lt hx) ch 0 x hx
  refine hcell.trans (pulledError_congr fun sh hsh x' y' _ hx' hy' => residualBefore_of_lt ?_)
  by_cases hdy : sh.dy = 0
  · have := hahead sh hsh hdy
    omega
  · omega

theorem chan_ditherColour (hahead : ∀ sh ∈ cx.shares, sh.dy = 0 → 1 ≤ sh.dx) (ch : Channel) {x : Nat} (hx : x < cx.width)
    (y : Nat) : chan ch (ditherColour cx src x y) = max 0 (min 255 (chan ch (src x y) + errorUnits cx.errDiv
      (pulledError cx.shares cx.width
        (fun x y => chan ch (ditherColour cx src x y) - chan ch (cx.pal (ditherIndex cx src x y))) x y))) := by
  simp only [← channel_ditherResidual]
  rw [← current_eq_pulledError cx src hahead ch hx]
  exact chan_correctColour ch _ _ _

end Run

/-! ## The worked example -/

/-- The palette of `44_dither.md` R219: black and white. -/
def examplePalette (i : Nat) : Colour :=
  if i = 0 then { red := 0, green := 0, blue := 0 } else { red := 255, green := 255, blue := 255 }

/-- The context of R219: Floyd-Steinberg over two pixels and two entries. -/
def exampleContext : DitherContext where
  errDiv := .trunc
  shares := kernelShares kromRef.floydSteinberg
  pal := examplePalette
  choose := fun c => nearest examplePalette c 0 2
  width := 2

/-- A grey cell, the same error on each channel. -/
def greyCell (n : Int) : ErrCell := { red := n, green := n, blue := n }

/-- `E` after pixel 0: its residual is 10, and the target at column −1 is dropped. -/
def exampleAfterFirst : ErrWindow where
  row0 := [greyCell 0, greyCell 286720]
  row1 := [greyCell 204800, greyCell 40960]
  row2 := [greyCell 0, greyCell 0]

/-- `E` after pixel 1: its residual is 4, and the targets at column 2 are dropped. -/
def exampleAfterSecond : ErrWindow where
  row0 := [greyCell 0, greyCell 286720]
  row1 := [greyCell 253952, greyCell 122880]
  row2 := [greyCell 0, greyCell 0]

theorem ditherPixel_example_first :
    ditherPixel exampleContext (ErrWindow.zero 2) 0 { red := 10, green := 10, blue := 10 } = (0, exampleAfterFirst) := by
  decide

theorem ditherPixel_example_second :
    ditherPixel exampleContext exampleAfterFirst 1 { red := 0, green := 0, blue := 0 } = (0, exampleAfterSecond) := by
  decide

/-- Settles O34: the two pixels one after the other. -/
theorem workedExampleOfTheDocument : Obligations.WorkedExampleOfTheDocument := by
  unfold Obligations.WorkedExampleOfTheDocument
  intro bw cx src
  have hfirst : ditherRow cx src (ErrWindow.zero 2) 1 = ([0], exampleAfterFirst) :=
    congrArg (fun p : Nat × ErrWindow => ([p.1], p.2)) ditherPixel_example_first
  have hsecond : ditherRow cx src (ErrWindow.zero 2) 2 = ([0, 0], exampleAfterSecond) := by
    rw [ditherRow, hfirst]
    exact congrArg (fun p : Nat × ErrWindow => ([0, p.1], p.2)) ditherPixel_example_second
  rw [hfirst, hsecond]
  exact ⟨rfl, rfl, rfl⟩

/-! ## The eight kernels -/

/-- Settles O30: the colours by `chan_ditherColour`, the indices by `isNearest_nearest`, the rest by the frame of the family. -/
theorem ditherIsErrorPulledFromItsSources : Obligations.DitherIsErrorPulledFromItsSources := by
  intro s i k hik hlegal hd hpos hpaln hp
  have hf : family i = .rgb2pal (some k) := by
    cases k <;> (simp at hik; subst hik; rfl)
  obtain ⟨t, he, hc, hres, hbytes⟩ :=
    exists_completed_of_pass (i := i) (hf ▸ nofun) (hf ▸ firstFault_rgb2pal_eq_none hd hpos hpaln hp)
  rw [hf] at hbytes
  refine ⟨t, ditherColour (s.ditherContext k) s.sourcePixel, ditherIndex (s.ditherContext k) s.sourcePixel, he, hc, hres,
    fun x y hx hy => ⟨fun ch => ?_, ?_, ?_⟩, fun a ha => ?_⟩
  · exact chan_ditherColour (s.ditherContext k) s.sourcePixel (fun _ => kernelShares_ahead hlegal k) ch hx y
  · exact isNearest_nearest s _ hpos
  · exact (hbytes _).trans (readByte_rgb2palDither s k hx hy)
  · exact (hbytes a).trans (familyMem_outside (f := .rgb2pal (some k)) ha)

end Sys2Proof.Machine
end

section
/-! PROOFS. Exceptions (`60_exceptions.md`): the order of the checks (R236), the two ways a command ends (R230 to R234), and what
a step does to `STATUS`: ERR (R238), OVR (R239) and the interrupt output (R240). -/

namespace Sys2Proof.Machine

open Sys2Proof.Spec

/-! ## The fault a check raises -/

/-- The check raises a fault of code `n`. -/
def Raises (n : Nat) (c : Option PdiFault) : Prop := ∃ f, c = some f ∧ f.code.toNat = n

@[simp] theorem raises_some {n : Nat} {f : PdiFault} : Raises n (some f) ↔ n = f.code.toNat := by
  simp [Raises, eq_comm]

theorem raises_failIf {n : Nat} {cond : Bool} {f : PdiFault} :
    Raises n (failIf cond f) ↔ n = f.code.toNat ∧ failIf cond f ≠ none := by
  cases cond <;> simp [Raises, eq_comm]

section Checks
variable (s : State) (n : Nat)

@[simp] theorem raises_checkPlanes : Raises n (checkPlanes s) ↔ n = 3 ∧ 31 < s.x.npl.toNat := by
  rw [← Nat.not_le, ← checkPlanes_eq_none]
  exact raises_failIf

@[simp] theorem raises_checkPlane (plane : Nat) : Raises n (checkPlane plane s) ↔ n = 4 ∧ s.x.npl.toNat ≤ plane := by
  rw [← Nat.not_lt, ← checkPlane_eq_none]
  exact raises_failIf

@[simp] theorem raises_checkDim : Raises n (checkDim s) ↔ n = 5 ∧ ¬DimsOk s := by
  rw [← checkDim_eq_none_iff_dimsOk]
  exact raises_failIf

@[simp] theorem raises_checkScale : Raises n (checkScale s) ↔ n = 6 ∧ ¬ScaleOk s := by
  rw [← checkScale_eq_none_iff_scaleOk]
  exact raises_failIf

@[simp] theorem raises_checkPal : Raises n (checkPal s) ↔ n = 7 ∧ 256 < s.x.paln.toNat := by
  rw [← Nat.not_le, ← checkPal_eq_none]
  exact raises_failIf

@[simp] theorem raises_checkPalMin (least : Nat) : Raises n (checkPalMin least s) ↔ n = 8 ∧ s.x.paln.toNat < least := by
  rw [← Nat.not_le, ← checkPalMin_eq_none]
  exact raises_failIf

@[simp] theorem raises_emptyPal {p : Prop} [Decidable p] : Raises n (failIf (decide p) .emptyPal) ↔ n = 9 ∧ p := by
  rw [raises_failIf, Ne, failIf_eq_none, decide_eq_false_iff_not, not_not]
  rfl

@[simp] theorem raises_checkFits (e : Extent) : Raises n (checkFits s e) ↔ n = 10 ∧ ¬InMem s (e.base, e.len) := by
  rw [InMem, ← checkFits_eq_none]
  exact raises_failIf

@[simp] theorem raises_checkApart (e f : Extent) :
    Raises n (checkApart e f) ↔ n = 11 ∧ Overlap (e.base, e.len) (f.base, f.len) := by
  rw [← not_not (a := Overlap _ _), ← checkApart_eq_none_iff_not_overlap]
  exact raises_failIf

theorem ushiftRight_six_eq_zero_iff (c : Byte) : c >>> 6 = 0 ↔ c.toNat < 64 := by
  rw [← BitVec.toNat_inj, toNat_ushiftRight_byte]
  exact Nat.div_eq_zero_iff_lt (by decide)

/-- Stage 12 reports the first malformed pixel (`42_ham.md` R166). -/
theorem checkPixels_eq_some_iff (f : PdiFault) : checkPixels s = some f ↔ ∃ d, FirstMalformed s d ∧ .badPixel d = f := by
  simp only [checkPixels, Option.map_eq_some_iff, List.findIdx?_eq_some_iff_getElem, State.hamSource_length, FirstMalformed,
    hamSource_getElem, ne_eq, decide_eq_true_eq, ushiftRight_six_eq_zero_iff, Nat.not_lt, Nat.not_le, exists_prop]

@[simp] theorem raises_checkPixels : Raises n (checkPixels s) ↔ n = 12 ∧ ∃ d, FirstMalformed s d := by
  simp only [Raises, checkPixels_eq_some_iff]
  constructor
  · rintro ⟨_, ⟨d, hd, rfl⟩, rfl⟩
    exact ⟨rfl, d, hd⟩
  · rintro ⟨rfl, d, hd⟩
    exact ⟨_, ⟨d, hd, rfl⟩, rfl⟩

end Checks

/-! ## The table of stages and the checks of a family -/

theorem plx_eq_range (s : State) : (s.x.plx.base, s.x.plx.len) = plxRange s := rfl
theorem ddx_eq_range (s : State) : (s.x.ddx.base, s.x.ddx.len) = ddxRange s := rfl
theorem cx_eq_range (s : State) (b : Nat) : ((s.x.cx b).base, (s.x.cx b).len) = cxRange s b := rfl
theorem dx_eq_range (s : State) (b : Nat) : ((s.x.dx b).base, (s.x.dx b).len) = dxRange s b := rfl
theorem px_eq_range (s : State) : (s.x.px.base, s.x.px.len) = pxRange s := rfl

/-- Every fault the check raises is that of stage `k`. -/
def OfStage (k : Nat) (c : Option PdiFault) : Prop := ∀ n, Raises n c → n = k

/-- The stages `ns` are in order and none is before stage 2, and the checks `cs` are theirs, one by one. -/
structure Staged (ns : List Nat) (cs : List (Option PdiFault)) : Prop where
  low : ∀ k ∈ ns, 2 ≤ k
  sorted : ns.Pairwise (· ≤ ·)
  checks : List.Forall₂ OfStage ns cs

theorem mem_stages_of_raises {ns : List Nat} {cs : List (Option PdiFault)} (h : List.Forall₂ OfStage ns cs)
    {c : Option PdiFault} (hc : c ∈ cs) {n : Nat} (hn : Raises n c) : n ∈ ns := by
  induction h with
  | nil => cases hc
  | cons hhead _ ih =>
    rcases List.mem_cons.1 hc with rfl | hc
    · exact hhead n hn ▸ List.mem_cons_self
    · exact List.mem_cons_of_mem _ (ih hc)

/-- No check raises a fault of an earlier stage than the fault reported. -/
theorem Staged.firstFault_code_le {ns : List Nat} {cs : List (Option PdiFault)} (h : Staged ns cs) {p : PdiFault}
    (hp : firstFault cs = some p) {c : Option PdiFault} (hc : c ∈ cs) {n : Nat} (hn : Raises n c) : p.code.toNat ≤ n := by
  obtain ⟨-, hsorted, hchecks⟩ := h
  induction hchecks with
  | nil => cases hc
  | @cons k d _ _ hhead hrest ih =>
    obtain ⟨hleast, hsorted⟩ := List.pairwise_cons.1 hsorted
    cases d with
    | none =>
      rcases List.mem_cons.1 hc with rfl | hc
      · obtain ⟨_, hq, -⟩ := hn
        cases hq
      · exact ih hp hc hsorted
    | some q =>
      cases hp
      rcases List.mem_cons.1 hc with rfl | hc
      · exact (raises_some.1 hn).ge
      · exact hhead _ (raises_some.2 rfl) ▸ hleast n (mem_stages_of_raises hrest hc hn)

/-- The checks of a family stand in the order of their stages (`60_exceptions.md` R236). -/
theorem exists_stages (f : Family) (s : State) : ∃ ns, Staged ns (familyChecks f s) := by
  cases f with
  | plclr => exact ⟨[3, 5, 10], by decide, by decide, by simp [familyChecks, plclrChecks, OfStage]⟩
  | fillp plane set => exact ⟨[3, 4, 5, 10], by decide, by decide, by simp [familyChecks, fillpChecks, OfStage]⟩
  | deint =>
    by_cases hn : s.x.npl.toNat = 0
    · exact ⟨[3], by decide, by decide, by simp [familyChecks, hn, OfStage]⟩
    · exact ⟨[3, 5, 10, 10, 11], by decide, by decide, by simp [familyChecks, deintChecks, hn, OfStage]⟩
  | solid b => exact ⟨[5, 10], by decide, by decide, by simp [familyChecks, solidChecks, OfStage]⟩
  | expand b => exact ⟨[5, 6, 10], by decide, by decide, by simp [familyChecks, expandChecks, OfStage]⟩
  | badWidth => exact ⟨[2], by decide, by decide, by simp [familyChecks, OfStage, PdiFault.code]⟩
  | ham6 => exact ⟨[5, 7, 8, 10, 10, 10, 11, 11, 12], by decide, by decide, by simp [familyChecks, hamChecks, OfStage]⟩
  | ham8 => exact ⟨[5, 7, 8, 10, 10, 10, 11, 11], by decide, by decide, by simp [familyChecks, hamChecks, OfStage]⟩
  | rgb2pal k => exact ⟨[5, 7, 9, 10, 10, 10, 11, 11], by decide, by decide, by simp [familyChecks, rgb2palChecks, OfStage]⟩
  | nearest => exact ⟨[7, 9, 10], by decide, by decide, by simp [familyChecks, nearestChecks, OfStage]⟩

theorem two_le_of_raises {f : Family} {s : State} {c : Option PdiFault} (hc : c ∈ familyChecks f s) {n : Nat}
    (hn : Raises n c) : 2 ≤ n := by
  obtain ⟨ns, h⟩ := exists_stages f s
  exact h.low n (mem_stages_of_raises h.checks hc hn)

/-- A stage of the table fails exactly when a check of the family raises its fault. The family with a wrong pixel width is left
out: the table gives it stage 5 too, and its one check is that of stage 2. -/
theorem stageFails_iff {n : Nat} (h2 : 2 ≤ n) (h12 : n ≤ 12) {f : Family} (hf : f ≠ .badWidth) (s : State) :
    stageFails n f s ↔ ∃ c ∈ familyChecks f s, Raises n c := by
  cases f with
  | plclr => interval_cases n <;> simp [stageFails, familyChecks, plclrChecks, checkedRanges, testedPairs, plx_eq_range]
  | fillp plane set =>
    interval_cases n <;> simp [stageFails, familyChecks, fillpChecks, checkedRanges, testedPairs, plx_eq_range]
  | deint =>
    by_cases hn : s.x.npl.toNat = 0
    · interval_cases n <;> simp [stageFails, familyChecks, checkedRanges, testedPairs, hn]
    · interval_cases n <;>
        simp [stageFails, familyChecks, deintChecks, checkedRanges, testedPairs, hn, plx_eq_range, ddx_eq_range]
  | solid b => interval_cases n <;> simp [stageFails, familyChecks, solidChecks, checkedRanges, testedPairs, cx_eq_range]
  | expand b => interval_cases n <;> simp [stageFails, familyChecks, expandChecks, checkedRanges, testedPairs, cx_eq_range]
  | badWidth => exact absurd rfl hf
  | ham6 | ham8 =>
    interval_cases n <;>
      simp [stageFails, familyChecks, hamChecks, checkedRanges, testedPairs, cx_eq_range, dx_eq_range, px_eq_range]
  | rgb2pal k =>
    interval_cases n <;>
      simp [stageFails, familyChecks, rgb2palChecks, checkedRanges, testedPairs, cx_eq_range, dx_eq_range, px_eq_range]
  | nearest =>
    interval_cases n <;> simp [stageFails, familyChecks, nearestChecks, checkedRanges, testedPairs, px_eq_range]

section FirstFault
variable {f : Family} {s : State}

/-- A check that raises a fault fails its stage. -/
theorem stageFails_of_raises {n : Nat} (h12 : n ≤ 12) {c : Option PdiFault} (hc : c ∈ familyChecks f s) (h : Raises n c) :
    stageFails n f s := by
  by_cases hf : f = .badWidth
  · subst hf
    obtain rfl := List.mem_singleton.1 hc
    obtain rfl := raises_some.1 h
    rfl
  · exact (stageFails_iff (two_le_of_raises hc h) h12 hf s).2 ⟨c, hc, h⟩

/-- A stage that fails is found by a check of that stage or an earlier one. -/
theorem exists_raises_of_stageFails {n : Nat} (h2 : 2 ≤ n) (h12 : n ≤ 12) (h : stageFails n f s) :
    ∃ m, m ≤ n ∧ ∃ c ∈ familyChecks f s, Raises m c := by
  by_cases hf : f = .badWidth
  · subst hf
    exact ⟨2, h2, some .badBpp, List.mem_singleton_self _, raises_some.2 rfl⟩
  · exact ⟨n, Nat.le_refl n, (stageFails_iff h2 h12 hf s).1 h⟩

/-- The fault reported is that of a stage of the table, which fails. -/
theorem stage_of_firstFault {p : PdiFault} (h : firstFault (familyChecks f s) = some p) :
    some p ∈ familyChecks f s ∧ 2 ≤ p.code.toNat ∧ stageFails p.code.toNat f s := by
  obtain ⟨before, after, e, -⟩ := firstFault_eq_some.1 h
  have hmem : some p ∈ familyChecks f s := by simp [e]
  have hraises : Raises p.code.toNat (some p) := raises_some.2 rfl
  exact ⟨hmem, two_le_of_raises hmem hraises, stageFails_of_raises p.code_le hmem hraises⟩

/-- The first stage that fails gives the fault (`60_exceptions.md` R236, R237). -/
theorem exists_firstFault_of_first_stage {n : Nat} (h2 : 2 ≤ n) (h12 : n ≤ 12) (hn : stageFails n f s)
    (hfirst : ∀ m, 2 ≤ m → m < n → ¬stageFails m f s) :
    ∃ p, firstFault (familyChecks f s) = some p ∧ p.code.toNat = n := by
  obtain ⟨m, hm, c, hc, hraises⟩ := exists_raises_of_stageFails h2 h12 hn
  cases hp : firstFault (familyChecks f s) with
  | none =>
    obtain ⟨q, hq, -⟩ := hraises
    exact absurd (hq.symm.trans (firstFault_eq_none.1 hp c hc)) (Option.some_ne_none q)
  | some p =>
    obtain ⟨-, hlow, hfails⟩ := stage_of_firstFault hp
    obtain ⟨ns, hstaged⟩ := exists_stages f s
    have hle : p.code.toNat ≤ n := (hstaged.firstFault_code_le hp hc hraises).trans hm
    have hge : ¬p.code.toNat < n := fun hlt => hfirst _ hlow hlt hfails
    exact ⟨p, rfl, by omega⟩

/-- A command passes its checks when no stage fails. -/
theorem firstFault_eq_none_of_no_stage (h : ∀ n, 2 ≤ n → n ≤ 12 → ¬stageFails n f s) :
    firstFault (familyChecks f s) = none := by
  cases hp : firstFault (familyChecks f s) with
  | none => rfl
  | some p =>
    obtain ⟨-, hlow, hfails⟩ := stage_of_firstFault hp
    exact absurd hfails (h _ hlow p.code_le)

/-- `BADPIXEL` is raised by HAM6 alone, with the number of the first malformed pixel. -/
theorem firstMalformed_of_badPixel {d : Nat} (h : some (.badPixel d) ∈ familyChecks f s) : FirstMalformed s d := by
  have h12 : stageFails 12 f s := stageFails_of_raises (Nat.le_refl 12) h (raises_some.2 rfl)
  obtain rfl : f = .ham6 := h12.1
  rcases List.mem_append.1 h with hham | hpixels
  · have hcode : ∀ c ∈ hamChecks 16 s, ¬Raises 12 c := by simp [hamChecks]
    exact absurd (raises_some.2 rfl) (hcode _ hham)
  · obtain ⟨d', hd', e⟩ := (checkPixels_eq_some_iff s _).1 (List.mem_singleton.1 hpixels).symm
    cases e
    exact hd'

end FirstFault

/-! ## How a command ends -/

/-- The detail a fault leaves: 0, or the pixel number of `BADPIXEL` (`60_exceptions.md` R234). -/
theorem PdiFault.exists_detail (p : PdiFault) (s : State) :
    ∃ d, Faulted s (s.raise p) p.code.toNat d ∧ (p.code.toNat ≠ 12 → d = 0) ∧ (p.code.toNat = 12 → p = .badPixel d) := by
  cases p with
  | badPixel d => exact ⟨d, rfl, fun h => absurd rfl h, fun _ => rfl⟩
  | _ => exact ⟨0, rfl, fun _ => rfl, by decide⟩

/-- An illegal word faults before any register is examined (`30_encoding.md` R93). -/
theorem engineTurn_of_illegal {s : State} {e : DecodeError} (hb : s.status.busy = true) (hd : decode s.cur = .error e) :
    engineTurn s = .next (s.raise .illCmd) := by
  simp only [engineTurn, hb, if_true, execute, hd]

/-- Settles O6: an illegal word has no checks; a decoded command takes the fault of its first failing stage, or completes. -/
theorem checksInFixedOrder : Obligations.ChecksInFixedOrder := by
  intro s hb hs
  refine ⟨fun e he => ⟨s.raise .illCmd, ?illegal, rfl⟩, fun i hi => ⟨fun n h2 h12 hn hfirst => ?fault, fun hnone => ?complete⟩⟩
  case illegal => exact (step_of_nil hs).trans (engineTurn_of_illegal hb he)
  case fault =>
    obtain ⟨p, hp, rfl⟩ := exists_firstFault_of_first_stage h2 h12 hn hfirst
    obtain ⟨hmem, -, -⟩ := stage_of_firstFault hp
    obtain ⟨d, hfaulted, hzero, hpixel⟩ := p.exists_detail s
    refine ⟨_, d, ?_, hfaulted, hzero, fun h => ?_⟩
    · rw [step_of_nil hs, engineTurn_of_busy hb hi, exec_eq_runCommand, runCommand_of_fault hp]
    · exact firstMalformed_of_badPixel (hpixel h ▸ hmem)
  case complete =>
    refine ⟨(familyEffect (family i) s).complete, ?_, rfl⟩
    rw [step_of_nil hs, engineTurn_of_busy hb hi, exec_eq_runCommand, runCommand_of_pass (firstFault_eq_none_of_no_stage hnone)]

/-- Settles O7: the two ends of `exec_outcome`. -/
theorem commandEndsInOneOfTwoWays : Obligations.CommandEndsInOneOfTwoWays := by
  intro i s
  rcases exec_outcome i s with ⟨p, hp, e⟩ | ⟨_, e⟩
  · obtain ⟨d, hfaulted, hzero, _⟩ := p.exists_detail s
    obtain ⟨-, hlow, -⟩ := stage_of_firstFault hp
    exact ⟨_, e, rfl, Or.inr ⟨_, d, by omega, p.code_le, hzero, hfaulted⟩⟩
  · refine ⟨_, e, rfl, Or.inl ⟨rfl, fun hi => familyRes_other (fun hf => hi (family_eq_nearest hf)) s, ?_⟩⟩
    rintro rfl
    rfl

/-! ## What a step does to `STATUS` -/

/-- A write at the offset is dropped (`10_state.md` R25, R32). -/
def DropsWrite (s : State) (off : Nat) : Prop :=
  ((∃ r : OpReg, off = 0x40 + 4 * r.index) ∧ s.status.busy = true) ∨
    (off = 0x14 ∧ (s.status.busy = true ∨ s.status.err = true))

/-- Everything a register write can do to `STATUS` and `CUR`: clear flags, accept a command, be dropped, or nothing. -/
theorem writeReg_status_cases {s : State} {off : Nat} {r : Reg} (hr : regAt off = some r) (v : Word) :
    (off = 0x08 ∧ s.writeReg r v = s.writeStatus v) ∨
    (off = 0x14 ∧ s.status.err = false ∧ s.writeReg r v = s.accept v) ∨
    (DropsWrite s off ∧ s.writeReg r v = s.dropWrite) ∨
    ((s.writeReg r v).status = s.status ∧ (s.writeReg r v).cur = s.cur) := by
  cases r with
  | status => exact Or.inl ⟨regAt_home hr rfl, rfl⟩
  | cmd =>
    have hoff : off = 0x14 := regAt_home hr rfl
    rcases s.writeCmd_cases v with ⟨_, he, e⟩ | ⟨hbe, e⟩
    · exact Or.inr (Or.inl ⟨hoff, he, e⟩)
    · exact Or.inr (Or.inr (Or.inl ⟨Or.inr ⟨hoff, hbe⟩, e⟩))
  | operand q =>
    rcases s.writeOperand_cases v q with ⟨_, e⟩ | ⟨hb, e⟩
    · exact Or.inr (Or.inr (Or.inr ⟨(congrArg State.status e :), (congrArg State.cur e :)⟩))
    · exact Or.inr (Or.inr (Or.inl ⟨Or.inl ⟨⟨q, regAt_home hr rfl⟩, hb⟩, e⟩))
  | id | ctrl | errCode | errInfo | res | memSz | reserved => exact Or.inr (Or.inr (Or.inr ⟨rfl, rfl⟩))

/-- Everything a step can do to `STATUS` and `CUR`: a turn of the engine, a write that clears flags, an acceptance, a dropped
write, `Reset`, or nothing. -/
theorem step_status_cases {s t : State} (h : step s = .next t) :
    (∃ rest, engineTurn { s with script := rest } = .next t) ∨
    (∃ v rest, s.script = .host (.regWrite 0x08 v) :: rest ∧ t = State.writeStatus { s with script := rest } v) ∨
    (∃ v rest, s.status.err = false ∧ t = State.accept { s with script := rest } v) ∨
    (∃ off v rest, s.script = .host (.regWrite off v) :: rest ∧ DropsWrite s off ∧
      t = State.dropWrite { s with script := rest }) ∨
    (∃ rest, s.script = .host .reset :: rest ∧ t.status = Status.clear) ∨
    (t.status = s.status ∧ t.cur = s.cur) := by
  rcases step_cases h with ⟨rest, _, hturn⟩ | ⟨m, rest, hs, hmove⟩ | ⟨_, _, rfl⟩
  · exact Or.inl ⟨rest, hturn⟩
  · rcases hostMove_cases hmove with ⟨_, _, _, _, rfl⟩ | ⟨off, v, r, rfl, hr, rfl⟩ | ⟨_, _, _, _, rfl⟩ |
      ⟨_, _, _, _, _, rfl⟩ | ⟨rfl, rfl⟩
    · exact Or.inr (Or.inr (Or.inr (Or.inr (Or.inr ⟨rfl, rfl⟩))))
    · rcases writeReg_status_cases hr v with ⟨rfl, e⟩ | ⟨_, he, e⟩ | ⟨hdrop, e⟩ | hsame
      · exact Or.inr (Or.inl ⟨v, rest, hs, e⟩)
      · exact Or.inr (Or.inr (Or.inl ⟨v, rest, he, e⟩))
      · exact Or.inr (Or.inr (Or.inr (Or.inl ⟨off, v, rest, hs, hdrop, e⟩)))
      · exact Or.inr (Or.inr (Or.inr (Or.inr (Or.inr hsame))))
    · exact Or.inr (Or.inr (Or.inr (Or.inr (Or.inr ⟨rfl, rfl⟩))))
    · exact Or.inr (Or.inr (Or.inr (Or.inr (Or.inr ⟨rfl, rfl⟩))))
    · exact Or.inr (Or.inr (Or.inr (Or.inr (Or.inl ⟨rest, hs, rfl⟩))))
  · exact Or.inr (Or.inr (Or.inr (Or.inr (Or.inr ⟨rfl, rfl⟩))))

/-- Settles O48: of the cases of `step_status_cases`, an acceptance needs ERR = 0, and only the two named writes clear it. -/
theorem errIsSticky : Obligations.ErrIsSticky := by
  intro s t herr ht
  rcases step_status_cases ht with ⟨_, hturn⟩ | ⟨v, rest, hs, rfl⟩ | ⟨_, _, he, _⟩ | ⟨_, _, _, _, _, rfl⟩ | ⟨rest, hs, _⟩ |
    ⟨hstatus, hcur⟩
  · obtain ⟨_, _, _, _, hcur, _, _, hbusy, _, hkept⟩ := engineTurn_frame hturn
    exact Or.inr ⟨hkept herr, hcur, fun _ => hbusy⟩
  · cases hv : v.getLsbD 2 with
    | true => exact Or.inl ⟨_, rest, hs, Or.inr ⟨v, rfl, hv⟩⟩
    | false => exact Or.inr ⟨by rw [State.writeStatus_status, Status.writeOneToClear_err, hv, herr]; rfl, rfl, id⟩
  · cases he.symm.trans herr
  · exact Or.inr ⟨herr, rfl, id⟩
  · exact Or.inl ⟨_, rest, hs, Or.inl rfl⟩
  · exact Or.inr ⟨hstatus ▸ herr, hcur, fun hb => hstatus ▸ hb⟩

/-- A step that sets OVR dropped a host write. -/
theorem dropsWrite_of_sets_ovr {s t : State} (ht : step s = .next t) (hs : s.status.ovr = false) (ht' : t.status.ovr = true) :
    ∃ off v rest, s.script = .host (.regWrite off v) :: rest ∧ DropsWrite s off ∧
      t = State.dropWrite { s with script := rest } := by
  rcases step_status_cases ht with ⟨_, hturn⟩ | ⟨_, _, _, rfl⟩ | ⟨_, _, _, rfl⟩ | hdropped | ⟨_, _, hclear⟩ | ⟨hstatus, _⟩
  · obtain ⟨_, _, _, _, _, _, _, _, hovr, _⟩ := engineTurn_frame hturn
    cases hs.symm.trans (hovr.symm.trans ht')
  · rw [State.writeStatus_status, Status.writeOneToClear_ovr, hs] at ht'
    cases ht'
  · cases hs.symm.trans ht'
  · exact hdropped
  · rw [hclear] at ht'
    cases ht'
  · rw [hstatus, hs] at ht'
    cases ht'

/-- A step that clears OVR is a `STATUS` write with bit 3 set, or `Reset`. -/
theorem clears_ovr {s t : State} (ht : step s = .next t) (hs : s.status.ovr = true) (ht' : t.status.ovr = false) :
    (∃ v rest, s.script = .host (.regWrite 0x08 v) :: rest ∧ v.getLsbD 3 = true) ∨ ∃ rest, s.script = .host .reset :: rest := by
  rcases step_status_cases ht with ⟨_, hturn⟩ | ⟨v, rest, hscript, rfl⟩ | ⟨_, _, _, rfl⟩ | ⟨_, _, _, _, _, rfl⟩ |
    ⟨rest, hscript, _⟩ | ⟨hstatus, _⟩
  · obtain ⟨_, _, _, _, _, _, _, _, hovr, _⟩ := engineTurn_frame hturn
    cases ht'.symm.trans (hovr.trans hs)
  · rw [State.writeStatus_status, Status.writeOneToClear_ovr, hs, Bool.true_and, Bool.not_eq_false'] at ht'
    exact Or.inl ⟨v, rest, hscript, ht'⟩
  · cases ht'.symm.trans hs
  · cases ht'
  · exact Or.inr ⟨rest, hscript⟩
  · rw [hstatus, hs] at ht'
    cases ht'

/-- A `CMD` write with neither BUSY nor ERR is an acceptance (`10_state.md` R32). -/
theorem step_accept {s : State} {v : Word} {rest : List Turn} (hs : s.script = .host (.regWrite 0x14 v) :: rest)
    (hb : s.status.busy = false) (he : s.status.err = false) : step s = .next (State.accept { s with script := rest } v) :=
  (cmdWriteAcceptsOrDrops.2 s v rest).1 hs hb he

/-- Settles O49: how OVR rises, how it falls, and that an acceptance leaves it. -/
theorem ovrRecordsADroppedWrite : Obligations.OvrRecordsADroppedWrite := by
  refine fun s t ht => ⟨fun hs ht' => ?rises, clears_ovr ht, fun v rest hs hb he => ?accepted⟩
  case rises =>
    obtain ⟨off, v, rest, hscript, hdrop, rfl⟩ := dropsWrite_of_sets_ovr ht hs ht'
    exact ⟨off, v, rest, hscript, rfl, rfl, hdrop⟩
  case accepted =>
    obtain rfl := Host.Outcome.next.inj ((step_accept hs hb he).symm.trans ht)
    exact ⟨rfl, rfl, rfl⟩

/-! ## The interrupt output -/

theorem irq_eq_false_of_clear {s : State} (hd : s.status.done = false) (he : s.status.err = false) : irq s = false := by
  rw [irq, hd, he, Bool.or_false, Bool.and_false]

/-- Settles O47: each of the four moves leaves IEN = 0, or DONE = ERR = 0. -/
theorem interruptOutput : Obligations.InterruptOutput := by
  refine fun s => ⟨by rw [irq, Bool.and_eq_true, Bool.or_eq_true], fun v rest t ht =>
    ⟨fun hs hdone herr => ?status, fun hs hb he => ?accepted, fun hs hien => ?ctrl, fun hs => ?reset⟩⟩
  case status =>
    obtain rfl := Host.Outcome.next.inj ((step_regWrite hs rfl).symm.trans ht)
    refine irq_eq_false_of_clear (Eq.trans (Status.writeOneToClear_done _ v) ?_) (Eq.trans (Status.writeOneToClear_err _ v) ?_)
    · rw [hdone, Bool.not_true, Bool.and_false]
    · rw [herr, Bool.not_true, Bool.and_false]
  case accepted =>
    obtain rfl := Host.Outcome.next.inj ((step_accept hs hb he).symm.trans ht)
    exact irq_eq_false_of_clear rfl he
  case ctrl =>
    obtain rfl := Host.Outcome.next.inj ((step_regWrite hs rfl).symm.trans ht)
    exact (congrArg (· && _) hien).trans (Bool.false_and _)
  case reset =>
    obtain rfl := Host.Outcome.next.inj ((step_of_host hs).symm.trans ht)
    exact irq_eq_false_of_clear rfl rfl

end Sys2Proof.Machine
end

section
/-! PROOFS. The host and MEM while a command is in flight (`70_reset_and_hazards.md` R264). -/

namespace Sys2Proof.Machine

/-- BUSY is examined before the address: no address, in MEM or outside it, is accessible to the host meanwhile. -/
theorem hostMemAccess_of_busy {s : State} (hb : s.status.busy = true) (a : Nat) (done : State) :
    hostMemAccess s a done = .refused .memoryWhileBusy := by
  rw [hostMemAccess, if_pos hb]

/-- Settles O44: a read and a write are the same `hostMemAccess`, whose first check is BUSY. -/
theorem noHostMemoryWhileBusy : Obligations.NoHostMemoryWhileBusy := by
  rintro s m rest hb hs (⟨a, rfl⟩ | ⟨a, b, rfl⟩)
  case inl => exact (step_of_host hs).trans (hostMemAccess_of_busy hb a _)
  case inr => exact (step_of_host hs).trans (hostMemAccess_of_busy hb a _)

end Sys2Proof.Machine
end
